-- ==== Sys2Proof/Word.lean ====
section
/-! DEFINITION. The units of data the bridge moves: the byte, the 4096-byte block, and the body of a frame. -/

namespace Sys2Proof

/-- One byte on a link or on the management line. -/
abbrev Byte := BitVec 8

/-- A block of 4096 bytes (00_scope, Units). Byte `j` of the block stands in bits `8j` to `8j + 7`. -/
abbrev Block := BitVec 32768

/-- The bytes that follow the head of a frame: the whole blocks they fill and the bytes left over.
A body has `4096 * blocks.length + tail.length` bytes. -/
structure Body where
  blocks : List Block
  tail : List Byte
  deriving DecidableEq, Repr

/-- The number of bytes of a body. -/
def Body.length (b : Body) : Nat := 4096 * b.blocks.length + b.tail.length

/-- A body of no bytes. -/
def Body.empty : Body := { blocks := [], tail := [] }

end Sys2Proof
end

