-- ==== Sys2Proof/Syntax.lean ====
section
/-! DEFINITION. The commands of the bridge: one constructor per row of spec/opcode_table.json, with what the
outside world brings to that step. -/

namespace Sys2Proof

/-- The header of a request frame less its kind byte (R197): bytes 1 to 15. -/
structure Header where
  tag : Byte
  count : BitVec 16
  lba : BitVec 48
  carried : BitVec 40
  check : Byte
  deriving DecidableEq, Repr

/-- One step of the part, by the rows of spec/opcode_table.json. The steps from `settingsWrite` to
`discardedWriteFrame` are the processing of the oldest complete write frame (R180), whose bytes wait in its receive
buffer: they bring nothing new from outside. -/
inductive Instr where
  /-- RESET: the reset input or power-on (R163). -/
  | reset
  /-- READ: a request frame whose kind byte is 0x01; the bytes after the header are discarded (R24). -/
  | read (h : Header) (extra : Body)
  /-- WRITE: a request frame whose kind byte is 0x02, with its payload (R24). -/
  | write (h : Header) (payload : Body)
  /-- FLUSH: a request frame whose kind byte is 0x03 (R37). -/
  | flush (h : Header) (extra : Body)
  /-- CAPACITY: a request frame whose kind byte is 0x04 (R26). -/
  | capacity (h : Header) (extra : Body)
  /-- UNKNOWN_KIND: a request frame with any other kind byte (R24). -/
  | unknownKind (kind : Byte) (h : Header) (extra : Body)
  /-- DRIVE_COMPLETION: an answer on a shelf link, its tag, slot and status bytes and its body (R134, R198). -/
  | driveCompletion (port : Fin 6) (tag slot status : Byte) (body : Body)
  /-- COMMAND_TIMER_EXPIRY: the timer of the command under a tag of a port expires (R139). -/
  | commandTimerExpiry (port : Fin 6) (tag : Fin 64)
  /-- STARVATION_TIMER_RUN_OUT: the starvation timer of a port reaches starve_limit (R156). -/
  | starvationTimerRunOut (port : Fin 6)
  /-- WRITE_FRAME: a stop or repeated start ends a write frame; all bytes the master sent after the address byte (R179). -/
  | writeFrame (bytes : List Byte)
  /-- READ_REQUEST: the second and third control bytes of a read request, the index high byte first (R182). -/
  | readRequest (indexHigh indexLow : Byte)
  /-- REPLY_FETCH: the master fetches a reply with 0x59, clocking this many bytes (R182). -/
  | replyFetch (clocked : Nat)
  /-- SETTINGS_WRITE: the oldest waiting frame is a write to space 0 and is processed (R185). -/
  | settingsWrite
  /-- STAGED_DESCRIPTOR_WRITE: the oldest waiting frame is a write to space 3 and is processed (R187). -/
  | stagedDescriptorWrite
  /-- CREATE: the oldest waiting frame is the CREATE command and is processed (R189). -/
  | create
  /-- ADMIT: the oldest waiting frame is the ADMIT command and is processed (R149). -/
  | admitMembers
  /-- START: the oldest waiting frame is the START command and is processed (R190). -/
  | start
  /-- PAUSE: the oldest waiting frame is the PAUSE command and is processed (R88). -/
  | pause
  /-- RESUME: the oldest waiting frame is the RESUME command and is processed (R90). -/
  | resume
  /-- CANCEL: the oldest waiting frame is the CANCEL command and is processed (R91). -/
  | cancel
  /-- ACK: the oldest waiting frame is the ACK command and is processed (R192). -/
  | ack
  /-- CLEAR_CAPTURE: the oldest waiting frame is the CLEAR CAPTURE command and is processed (R40). -/
  | clearCapture
  /-- RESTART: the oldest waiting frame is the RESTART command and is processed (R193). -/
  | restart
  /-- DISCARDED_WRITE_FRAME: the oldest waiting frame fails a test of R181 and is discarded. -/
  | discardedWriteFrame
  /-- LINE_ADDRESS_BYTE: the first byte of a frame on the management line (R179). -/
  | lineAddressByte (address : Byte)
  /-- READ_REQUEST_CONTROL_BYTE: the first control byte of a read request (R182). -/
  | readRequestControlByte (control : Byte)
  deriving DecidableEq, Repr

end Sys2Proof
end

