-- ==== Sys2Proof/Decode.lean ====
section
/-! DEFINITION. The commands that a word spells by the opcode table's bits: no row of the table gives bits, so no word
spells a command. -/

namespace Sys2Proof

/-- The command that the `nbits` bits of `w` spell: the rows of spec/opcode_table.json give no bits, so none. -/
def decodeTableWord (_nbits _w : Nat) : Option Instr := none

end Sys2Proof
end

