-- ==== Sys2Proof/Config.lean ====
section
/-! DEFINITION. What is fixed for the part: the capacities of its tables, pools and queues, and the one value that the
spec leaves open (NOTES.md, Assumptions). -/

namespace Sys2Proof.Config

/-- Tags of the array link, and entries of the request table (2.1). -/
def requestTags : Nat := 128
/-- Pieces in the piece pool (2.1, R29). -/
def poolPieces : Nat := 512
/-- The largest count of a READ or WRITE (R10). -/
def maxCount : Nat := 256
/-- Entries of the hold queue (3.1, R58). -/
def holdEntries : Nat := 32
/-- Entries of the row lock table (R114). -/
def lockEntries : Nat := 64
/-- Shelf ports (00_scope). -/
def shelfPorts : Nat := 6
/-- Drive slots of one shelf (00_scope). -/
def shelfSlots : Nat := 16
/-- Member positions, `shelf * 16 + slot` (R143). -/
def memberCount : Nat := 96
/-- Tags of one shelf port's drive command table (R135). -/
def driveTags : Nat := 64
/-- Commands a shelf port's foreground queue holds (7.2). -/
def foregroundRoom : Nat := 1024
/-- Commands a shelf port's migration queue holds (7.2). -/
def migrationRoom : Nat := 256
/-- Receive buffers of the management line (10). -/
def receiveBuffers : Nat := 2
/-- Transmit buffers of the management line (10). -/
def transmitBuffers : Nat := 2
/-- Bytes one receive buffer stores: 3 control bytes, 32 data bytes and one CRC byte (R179). -/
def bufferBytes : Nat := 36
/-- The first data block of every member, D (R3). -/
def firstDataBlock : Nat := 1024
/-- The first block of the staging area (R3). -/
def stagingBlock : Nat := 16
/-- The bound of a layout's capacity (R5). -/
def capacityLimit : Nat := 2 ^ 48
/-- The generation that follows 2^64 − 1. The spec gives generations from 1 to 2^64 − 1 and none past them, so this is a
free value: it has no body, and nothing holds of it (log entry 25). -/
opaque generationAfter : BitVec 64 → BitVec 64
/-- The model's own bound on the inner actions of one event. No event of the part comes near it. -/
def cascadeBound : Nat := 1000000

end Sys2Proof.Config
end

