-- ==== Sys2Proof/Machine/Bytes.lean ====
section
/-! DEFINITION. Byte order, byte sequences and the CRC-8: every multi-byte field is least significant byte first
(00_scope, Conventions), and both checks of the part use the CRC-8 of R22. -/

namespace Sys2Proof.Machine

/-- The `width` low bytes of a number, least significant first. -/
def leBytes : Nat → Nat → List Byte
  | 0, _ => []
  | width + 1, n => BitVec.ofNat 8 n :: leBytes width (n / 256)

/-- The number that bytes spell, least significant first. -/
def leNat : List Byte → Nat
  | [] => 0
  | b :: bs => b.toNat + 256 * leNat bs

/-- Byte `i` of a block. -/
def byteAt (b : Block) (i : Nat) : Byte := b.extractLsb' (8 * i) 8

/-- The number in the `width` bytes of a block from byte `i`, least significant first. -/
def fieldAt (b : Block) (i width : Nat) : Nat := (b.extractLsb' (8 * i) (8 * width)).toNat

/-- Word `i` of a block: bytes `4i` to `4i + 3`, least significant first (R97). -/
def wordAt (b : Block) (i : Nat) : BitVec 32 := b.extractLsb' (32 * i) 32

/-- The sum of the first `n` words of a block, modulo 2^32 (R97). -/
def sumWords (b : Block) : Nat → BitVec 32
  | 0 => 0
  | n + 1 => sumWords b n + wordAt b n

/-- Byte `i` of a body. -/
def bodyByte (b : Body) (i : Nat) : Option Byte :=
  if i < 4096 * b.blocks.length then (b.blocks[i / 4096]?).map (fun blk => byteAt blk (i % 4096))
  else b.tail[i - 4096 * b.blocks.length]?

/-- One bit of the CRC-8: shift left, and take the polynomial x^8 + x^2 + x + 1 away when a one falls out (R22). -/
def crcShift (v : Byte) : Byte := if v.getLsbD 7 then (v <<< 1) ^^^ 0x07 else v <<< 1

/-- The CRC-8 of one byte, most significant bit first (R22, 11.5). -/
def crcByte (v : Byte) : Byte :=
  crcShift (crcShift (crcShift (crcShift (crcShift (crcShift (crcShift (crcShift v)))))))

/-- The CRC-8 of a byte sequence: initial value 0x00, no final inversion (R22). -/
def crc8 (bytes : List Byte) : Byte := bytes.foldl (fun v b => crcByte (v ^^^ b)) 0

/-- The bytewise XOR of two runs of blocks (R16, R17). -/
def xorBlocks (a b : List Block) : List Block := List.zipWith (· ^^^ ·) a b

/-- `n` blocks of zero bytes. -/
def zeroBlocks (n : Nat) : List Block := List.replicate n 0

/-- The bytewise XOR of several runs of `n` blocks each (R16). -/
def xorAll (n : Nat) (runs : List (List Block)) : List Block := runs.foldl xorBlocks (zeroBlocks n)

/-- `items` with those from position `start` replaced by `new`, as far as both reach. -/
def spliceAt {α : Type} (items : List α) (start : Nat) (new : List α) : List α :=
  items.take start ++ (new.take (items.length - start) ++ items.drop (start + new.length))

/-- `length` bytes of a block of bytes from an offset; bytes past its end are zero (R182). -/
def bytesFrom (block : List Byte) (offset length : Nat) : List Byte :=
  (List.range length).map (fun i => block.getD (offset + i) 0)

end Sys2Proof.Machine
end

