-- ==== Sys2Proof/Machine/State.lean ====
section
/-! DEFINITION. The state of the bridge: every table, queue, counter, mode and pin the spec gives it, held as plain
data, and the state right after reset. Numbers that the manual calculates with (addresses, rows, counts) are natural
numbers, as 00_scope says of its arithmetic. Counters that wrap are bit vectors of their width. -/

namespace Sys2Proof.Machine

/-- Why the machine stops with a fault. No command of the bridge does: the spec gives every step an effect. -/
inductive Fault where
  /-- Raised by no meaning. The spec names nothing that stops the part; the constructor only gives the type an
  inhabitant. Safe: an outcome that never arises allows no false claim. -/
  | neverRaised
  deriving DecidableEq, Repr

/-- Why a command has no meaning. -/
inductive Refusal where
  /-- Raised by an arm of `exec` whose command has no meaning yet: none is left. Safe. -/
  | notModelled (mnemonic : String)
  deriving DecidableEq, Repr

/-- Volume state (R68). -/
inductive VolumeState where
  | discovering | unformed | initializing | stable | expanding
  deriving DecidableEq, Repr

/-- Engine state (R69). -/
inductive EngineState where
  | idle | copy | fill | held | recover | failed
  deriving DecidableEq, Repr

/-- The phase of a row slot, and the resume phase of a held engine (R73, R83). -/
inductive Phase where
  | copy | fill
  deriving DecidableEq, Repr

/-- The cause of a hold request (R88). -/
inductive HoldCause where
  | command | member
  deriving DecidableEq, Repr

/-- The state of a row slot (R73). -/
inductive SlotState where
  | free | gather | full | staging | writing
  deriving DecidableEq, Repr

/-- The two row slots (R73). -/
inductive SlotId where
  | a | b
  deriving DecidableEq, Repr

/-- The two layouts of an expansion (R2). -/
inductive Layout where
  | current | target
  deriving DecidableEq, Repr

/-- The class of a piece (R46). -/
inductive PieceClass where
  | current | target | slotRead | through | park
  deriving DecidableEq, Repr

/-- The state of a piece (R30). -/
inductive PieceState where
  | waiting | lockWait | parkWait | parked | issued | done
  deriving DecidableEq, Repr

/-- The outcome of a piece, and the accumulated status of a request (R30, R35). -/
inductive PieceOutcome where
  | good | lost
  deriving DecidableEq, Repr

/-- The direction of a piece (R30). -/
inductive Direction where
  | read | write
  deriving DecidableEq, Repr

/-- The kind of an accepted request (R27). -/
inductive RequestKind where
  | read | write | flush
  deriving DecidableEq, Repr

/-- The status byte of a completion frame (R197). -/
inductive Status where
  | good | busy | range | invalid | lost | fenced
  deriving DecidableEq, Repr

/-- The setting check_mode (R185). -/
inductive CheckMode where
  | strict | persistent
  deriving DecidableEq, Repr

/-- The check state of the array port (R39); `clear` is the manual's OPEN. -/
inductive CheckState where
  | clear | fenced
  deriving DecidableEq, Repr

/-- The cause of a capture (R38). -/
inductive CaptureCause where
  | check | dupTag
  deriving DecidableEq, Repr

/-- The state of a member (R143). -/
inductive MemberState where
  | empty | present | online | failed | stale
  deriving DecidableEq, Repr

/-- The health of a layout (R120); `absent` is the manual's none. -/
inductive Health where
  | absent | ok | degraded | broken
  deriving DecidableEq, Repr

/-- The pacing mode (R153). -/
inductive Pacing where
  | normal | yield
  deriving DecidableEq, Repr

/-- The class of a drive command (R136). -/
inductive CommandClass where
  | foreground | migration
  deriving DecidableEq, Repr

/-- The kind of a drive command (R133). -/
inductive DriveKind where
  | dread | dwrite | dprobe
  deriving DecidableEq, Repr

/-- The result of a management command (R184); `blank` is the manual's none. -/
inductive CommandResult where
  | blank | ok | refusedState | invalidDesc | busy
  deriving DecidableEq, Repr

/-- A descriptor (R1): the column count is the length of the member list, the rows are R. -/
structure Descriptor where
  chunk : Nat
  rows : Nat
  members : List Nat
  deriving DecidableEq, Repr

/-- The place of a piece or a source chunk in one layout (R7, R12): its row, its data column, and the first offset
and number of its blocks. -/
structure Place where
  layout : Layout
  row : Nat
  column : Nat
  offset : Nat
  count : Nat
  deriving DecidableEq, Repr

/-- A piece (R30). `place` is where the router put it; `slot` is the slot whose pending count it raised (R54, R55). -/
structure Piece where
  index : Nat
  direction : Direction
  lba : Nat
  count : Nat
  chunk : Nat
  cls : Option PieceClass
  state : PieceState
  place : Option Place
  slot : Option SlotId
  outcome : Option PieceOutcome
  deriving DecidableEq, Repr

/-- An entry of the request table (R27). -/
structure Request where
  tag : Nat
  kind : RequestKind
  lba : Nat
  count : Nat
  arrival : BitVec 32
  pieces : List Piece
  status : PieceOutcome
  buffer : List Block
  deriving DecidableEq, Repr

/-- A gather read in the overlap order (R32, R75), named by its arrival number. -/
structure Gather where
  arrival : BitVec 32
  chunk : Nat
  slot : SlotId
  position : Nat
  released : Bool
  deriving DecidableEq, Repr

/-- A full capture record (R38). -/
structure Capture where
  cause : CaptureCause
  header : List Byte
  computed : Byte
  overrun : Bool
  deriving DecidableEq, Repr

/-- The array port (2.1, R43). The table lists the outstanding requests in the order of their acceptance. -/
structure ArrayPort where
  table : List Request
  arrivals : BitVec 32
  gathers : List Gather
  capture : Option Capture
  check : CheckState
  captures : BitVec 16
  foreground : Nat
  deriving DecidableEq, Repr

/-- A parked piece with its target row (R58), or an entry of the current-layout set with its current row (R63). -/
structure RowPiece where
  tag : Nat
  index : Nat
  row : Nat
  deriving DecidableEq, Repr

/-- The router (3.1, R67). The pending write-through counts are kept with the slots. -/
structure Router where
  hold : List RowPiece
  parkWait : List RowPiece
  inCurrent : List RowPiece
  gate : Option Nat
  deriving DecidableEq, Repr

/-- A row slot (R73). -/
structure Slot where
  state : SlotState
  row : Option Nat
  phase : Phase
  gathers : Nat
  pending : Nat
  present : List Bool
  data : List (List Block)
  parity : Option (List Block)
  writes : Nat
  deriving DecidableEq, Repr

/-- The kind of a checkpoint (R99). -/
inductive CheckpointKind where
  | openingCreate | openingStart | stage | clearing | forced | periodic | final | cancel
  deriving DecidableEq, Repr

/-- One member's part of a checkpoint (R98, R100): its writes not yet ended, and whether all that ended were DGOOD. -/
structure CheckpointPart where
  member : Nat
  outstanding : Nat
  good : Bool
  deriving DecidableEq, Repr

/-- The checkpoint in flight (R99). -/
structure Checkpoint where
  kind : CheckpointKind
  generation : BitVec 64
  mark : Nat
  stage : Option (Nat × Nat)
  threshold : Nat
  parts : List CheckpointPart
  deriving DecidableEq, Repr

/-- The durable record (R101): generation, CM, and the staged row with its stage column. -/
structure Durable where
  generation : BitVec 64
  mark : Nat
  stage : Option (Nat × Nat)
  deriving DecidableEq, Repr

/-- The staging under way (R106 to R109): the stage column, its stage writes not yet ended, and whether one failed. -/
structure Staging where
  column : Nat
  outstanding : Nat
  failed : Bool
  deriving DecidableEq, Repr

/-- The restripe engine (4.1, R95). -/
structure Engine where
  volume : VolumeState
  state : EngineState
  resume : Option Phase
  hold : Option HoldCause
  cancel : Bool
  current : Option Descriptor
  target : Option Descriptor
  doneMark : Nat
  checkMark : Nat
  generation : BitVec 64
  slotA : Slot
  slotB : Slot
  checkpoint : Option Checkpoint
  durable : Option Durable
  staging : Option Staging
  stageLoss : Option Nat
  deriving DecidableEq, Repr

/-- What the parity unit serves: a piece, or the engine's gather chunk named by its arrival number (R114). -/
inductive Work where
  | piece (tag index : Nat)
  | chunk (arrival : BitVec 32)
  deriving DecidableEq, Repr

/-- A row lock entry (R114). -/
structure LockEntry where
  layout : Layout
  row : Nat
  holder : Work
  waiters : List Work
  deriving DecidableEq, Repr

/-- The form of a service and its step (6.4): what the piece's step field shows. `writeDataParity` and `writeParity`
are WRITE_NEW of RECOMPUTE; `lockWait` is the wait for a lock. -/
inductive ServiceStep where
  | lockWait
  | rmwReadOld
  | rmwWriteNew
  | recomputeReadPeers
  | recomputeWriteParity
  | recomputeWriteDataParity
  | writeData
  | reconstructReadPeers
  | rereadReadOwn
  deriving DecidableEq, Repr

/-- Which read or write of a step a drive command is: that of the piece's own column, of the parity column in a write
service, or of a peer column (R123 to R126). -/
inductive StepRole where
  | own
  | parity
  | peer (column : Nat)
  deriving DecidableEq, Repr

/-- How a drive command ends toward its issuer (R141). -/
inductive Ending where
  | good (blocks : List Block)
  | media
  | failed
  deriving DecidableEq, Repr

/-- The complete results of a read step, kept for the write step that uses them (R121, R127). -/
inductive Kept where
  | nothing
  | old (data parity : List Block)
  | peers (sum : List Block)
  deriving DecidableEq, Repr

/-- The service record of a piece or gather chunk at the parity unit (6.1): the step, the commands of the step not yet
ended, the results of those that ended, the unreadable mark, and for a withdrawn gather chunk that its result is
discarded (R118). -/
structure Service where
  work : Work
  write : Bool
  place : Place
  step : ServiceStep
  outstanding : Nat
  results : List (StepRole × Ending)
  unreadable : Bool
  kept : Kept
  withdrawn : Bool
  deriving DecidableEq, Repr

/-- The parity unit (6.1, R132). -/
structure ParityUnit where
  locks : List LockEntry
  allocation : List Work
  services : List Service
  healthCurrent : Health
  healthTarget : Health
  deriving DecidableEq, Repr

/-- The work to which the outcome of a drive command is reported (R135). -/
inductive Issuer where
  /-- the router's single DREAD of a read piece (R51) -/
  | plainRead (tag index : Nat)
  /-- a step of the parity unit -/
  | service (work : Work) (role : StepRole)
  /-- a gather DREAD (R75) -/
  | gather (arrival : BitVec 32)
  /-- a write of a write-out (R81) -/
  | writeOut (slot : SlotId)
  /-- a stage write (R107) -/
  | stageWrite
  /-- a record or zero-block write of a checkpoint (R99) -/
  | checkpoint
  /-- a read of the stage copy at discovery (R172) -/
  | stageRead (position : Nat)
  /-- a probe of ADMIT (R149) -/
  | admitProbe
  /-- a probe of discovery (R164) -/
  | discoveryProbe
  /-- a record read of discovery: of block 8 when `odd`, else of block 0 (R165) -/
  | recordRead (odd : Bool)
  deriving DecidableEq, Repr

/-- A drive command (R133): the member is `shelf * 16 + slot`. -/
structure DriveCommand where
  kind : DriveKind
  member : Nat
  block : Nat
  count : Nat
  payload : List Block
  issuer : Issuer
  deriving DecidableEq, Repr

/-- An entry of a drive command table (7.2): `timer` is the cmd_timeout its running attempt started with. -/
structure TagEntry where
  tag : Nat
  command : DriveCommand
  cls : CommandClass
  attempt : Nat
  timer : Nat
  deriving DecidableEq, Repr

/-- A shelf port (7.2, 8.2). The table is in tag order. `starvation` is the time in milliseconds the starvation timer
is known to have run, none when it is stopped. -/
structure ShelfPort where
  table : List TagEntry
  foreground : List DriveCommand
  migration : List DriveCommand
  grants : Nat
  starvation : Option Nat
  deriving DecidableEq, Repr

/-- A member table entry (R143). -/
structure Member where
  state : MemberState
  capacity : Nat
  currentColumn : Option Nat
  targetColumn : Option Nat
  media : Nat
  best : Option (BitVec 64)
  deriving DecidableEq, Repr

/-- The probe outcome of a member at discovery (9). -/
inductive ProbeState where
  | pending
  | answered (capacity : Nat)
  | absent
  deriving DecidableEq, Repr

/-- A record read of discovery (9). `ended` is a read whose block gave no record or whose outcome was discarded. -/
inductive RecordRead where
  | notIssued
  | pending
  | record (block : Block)
  | unreadable
  | ended
  deriving DecidableEq, Repr

/-- What discovery holds of one member (9). -/
structure DiscoveryMember where
  probe : ProbeState
  block0 : RecordRead
  block8 : RecordRead
  deriving DecidableEq, Repr

/-- A candidate (R166): the record block, and the members and positions (block 8 when true) it was read from. -/
structure Candidate where
  block : Block
  copies : List (Nat × Bool)
  deriving DecidableEq, Repr

/-- Discovery's own state (9). -/
structure Discovery where
  members : List DiscoveryMember
  candidates : List Candidate
  chosen : Option Candidate
  stageReads : Option Nat
  deriving DecidableEq, Repr

/-- Command state (R188); while EXECUTING, the number of ADMIT's probes outstanding (R149). -/
inductive CommandState where
  | idle
  | executing (probes : Nat)
  deriving DecidableEq, Repr

/-- The command record with the command state (10, R188). The code 0 is none. -/
structure CommandRecord where
  state : CommandState
  code : Nat
  result : CommandResult
  sequence : BitVec 8
  deriving DecidableEq, Repr

/-- A frame or acknowledgement that an event hands over for sending. The bytes are those of R197, R198 and R182. -/
inductive Output where
  /-- a completion frame: its head, with the CAPACITY reply, and the blocks of a READ -/
  | arrayFrame (bytes : List Byte) (blocks : List Block)
  /-- a drive command on a shelf link: its head and its payload -/
  | shelfFrame (port : Nat) (head : List Byte) (payload : List Block)
  /-- the part acknowledges, or does not acknowledge, this many bytes on the management line -/
  | lineAck (acknowledged : Bool) (bytes : Nat)
  /-- the bytes of a reply on the management line -/
  | lineBytes (bytes : List Byte)
  deriving DecidableEq, Repr

/-- An inner action of an event that is still to be taken in the same event. -/
inductive Action where
  /-- a command's outcome goes to its issuer (R141) -/
  | deliver (command : DriveCommand) (ending : Ending)
  /-- the last command of a step of the parity unit has ended, and the step is judged (R123 to R126) -/
  | judgeStep (work : Work)
  /-- a step of the parity unit was withdrawn from its step wait list, and the form is decided again (R127) -/
  | decideAgain (work : Work)
  /-- a piece ends with this outcome (R34, R128) -/
  | finishPiece (tag index : Nat) (outcome : PieceOutcome) (blocks : List Block)
  /-- work reaches the parity unit, at the place it has then (R116) -/
  | handOver (work : Work) (write : Bool)
  /-- work that has its lock begins its first step (R117) -/
  | beginService (work : Work)
  /-- a gather chunk served by the parity unit is reported to the engine (R130) -/
  | gatherPresent (arrival : BitVec 32) (blocks : List Block)
  /-- the rest of a write-out completion after the release of parked pieces (R82) -/
  | afterWriteOut (row : Nat)
  /-- the last stage write of row DM has ended, and the engine takes its next step (R108, R109) -/
  | stageWritten
  /-- a stage checkpoint has succeeded, and the engine takes its next step (R108, R109) -/
  | stageDurable
  /-- the engine enters FAILED (R94) -/
  | failEngine
  /-- the write-out gate of a row is reported open (R64) -/
  | gateOpened (row : Nat)
  /-- the choice event of discovery (R167) -/
  | choose
  deriving DecidableEq, Repr

/-- Everything an event's inner actions act on: all blocks but the management line's own buffers and settings. `work`
and `sent` are the model's own: the inner actions still to be taken in the event, and the frames the latest event
handed over for sending, in order. -/
structure Bridge where
  port : ArrayPort
  router : Router
  engine : Engine
  parity : ParityUnit
  shelves : List ShelfPort
  foregroundWait : List (List DriveCommand)
  migrationWait : List (List DriveCommand)
  members : List Member
  pacing : Pacing
  discovery : Option Discovery
  causes : BitVec 5
  command : CommandRecord
  work : List Action
  sent : List Output
  deriving DecidableEq, Repr

/-- The settings (R185). -/
structure Settings where
  checkEnable : Bool
  checkMode : CheckMode
  cmdTimeout : Nat
  retryLimit : Nat
  mediaLimit : Nat
  yieldEnter : Nat
  yieldExit : Nat
  weight : Nat
  starveLimit : Nat
  cpInterval : Nat
  alertEnable : BitVec 5
  deriving DecidableEq, Repr

/-- The staged descriptor as it was written (R187): N, C and 24 member list entries. -/
structure StagedDescriptor where
  columns : Byte
  chunk : Byte
  members : List Byte
  deriving DecidableEq, Repr

/-- What the line is taking (R179, R182): nothing, a frame whose receive buffer is filling, or a read request whose
first control byte was acknowledged. -/
inductive LineState where
  | idle
  | filling
  | readControl (control : Byte)
  deriving DecidableEq, Repr

/-- A complete write frame in its receive buffer (R179): at most 36 bytes after the address byte, and whether more
were sent and dropped. -/
structure WriteFrame where
  bytes : List Byte
  overlong : Bool
  deriving DecidableEq, Repr

/-- A read reply in its transmit buffer (R182): its request's control word and its data. -/
structure Reply where
  control : List Byte
  data : List Byte
  deriving DecidableEq, Repr

/-- The management controller's own state (10): the line, the receive buffers that hold complete frames (oldest first),
the transmit buffers that hold replies (oldest first), the settings, the staged descriptor and the frame-error
counter. A receive buffer is filling exactly while the line is. -/
structure Management where
  line : LineState
  waiting : List WriteFrame
  replies : List Reply
  settings : Settings
  staged : StagedDescriptor
  frameErrors : BitVec 16
  deriving DecidableEq, Repr

/-- The state of the part, with the model's queue of commands that wait for their step. -/
structure State where
  mgmt : Management
  bridge : Bridge
  alertLine : Bool
  pending : List Instr
  deriving DecidableEq, Repr

/-- Every setting at its default (R185). -/
def Settings.reset : Settings :=
  { checkEnable := true, checkMode := .strict, cmdTimeout := 30, retryLimit := 2, mediaLimit := 16
    yieldEnter := 48, yieldExit := 16, weight := 4, starveLimit := 100, cpInterval := 256, alertEnable := 0x1F }

/-- The management controller after a reset (R196). -/
def Management.reset : Management :=
  { line := .idle, waiting := [], replies := [], settings := Settings.reset
    staged := { columns := 0, chunk := 0, members := List.replicate 24 0 }, frameErrors := 0 }

/-- A free slot with its marks cleared, no parity chunk and both counts at 0 (R95). -/
def Slot.reset : Slot :=
  { state := .free, row := none, phase := .copy, gathers := 0, pending := 0, present := [], data := [], parity := none
    writes := 0 }

/-- The array port after a reset (R43). -/
def ArrayPort.reset : ArrayPort :=
  { table := [], arrivals := 0, gathers := [], capture := none, check := .clear, captures := 0, foreground := 0 }

/-- The router after a reset (R67). -/
def Router.reset : Router := { hold := [], parkWait := [], inCurrent := [], gate := none }

/-- The restripe engine after a reset (R95, R101, R113, R173). -/
def Engine.reset : Engine :=
  { volume := .discovering, state := .idle, resume := none, hold := none, cancel := false, current := none
    target := none, doneMark := 0, checkMark := 0, generation := 0, slotA := Slot.reset, slotB := Slot.reset
    checkpoint := none, durable := none, staging := none, stageLoss := none }

/-- The parity unit after a reset (R132). -/
def ParityUnit.reset : ParityUnit :=
  { locks := [], allocation := [], services := [], healthCurrent := .absent, healthTarget := .absent }

/-- A shelf port with nothing outstanding and nothing queued (R152, R162). -/
def ShelfPort.reset : ShelfPort :=
  { table := [], foreground := [], migration := [], grants := 0, starvation := none }

/-- A member table entry before discovery has set it (R143). -/
def Member.reset : Member :=
  { state := .empty, capacity := 0, currentColumn := none, targetColumn := none, media := 0, best := none }

/-- A member's part of discovery when it begins (9). -/
def DiscoveryMember.reset : DiscoveryMember := { probe := .pending, block0 := .notIssued, block8 := .notIssued }

/-- Discovery when it begins (9). -/
def Discovery.reset : Discovery :=
  { members := List.replicate 96 DiscoveryMember.reset, candidates := [], chosen := none, stageReads := none }

/-- The command record after a reset (R196). -/
def CommandRecord.reset : CommandRecord := { state := .idle, code := 0, result := .blank, sequence := 0 }

/-- Every block in its reset state (R163), before discovery hands out its probes in the same event. -/
def Bridge.blocksReset : Bridge :=
  { port := ArrayPort.reset, router := Router.reset, engine := Engine.reset, parity := ParityUnit.reset
    shelves := List.replicate 6 ShelfPort.reset, foregroundWait := [], migrationWait := []
    members := List.replicate 96 Member.reset, pacing := .normal, discovery := some Discovery.reset, causes := 0
    command := CommandRecord.reset, work := [], sent := [] }

/-- The DPROBE that discovery hands to a member's port in the reset event (R163). -/
def discoveryProbe (member : Nat) : DriveCommand :=
  { kind := .dprobe, member := member, block := 0, count := 0, payload := [], issuer := .discoveryProbe }

/-- A shelf port right after the reset event: its sixteen probes are outstanding under tags 0 to 15, each on its first
attempt with the timer at the default cmd_timeout (R163, R135, R139). -/
def ShelfPort.probing (port : Nat) : ShelfPort :=
  { ShelfPort.reset with
    table := (List.range 16).map (fun slot =>
      { tag := slot, command := discoveryProbe (16 * port + slot), cls := .migration, attempt := 1, timer := 30 }) }

/-- The frame of a probe sent in the reset event: kind 0x03, the tag, the slot, block address 0 and count 0 (R198). -/
def probeFrame (member : Nat) : Output :=
  .shelfFrame (member / 16) [0x03, BitVec.ofNat 8 (member % 16), BitVec.ofNat 8 (member % 16), 0, 0, 0, 0, 0, 0, 0] []

/-- The machine right after reset: every block in its reset state, and discovery begun, since both are one event
(R163): the 96 probes are granted and sent. -/
def State.reset : State :=
  { mgmt := Management.reset
    bridge := { Bridge.blocksReset with
      shelves := (List.range 6).map ShelfPort.probing, sent := (List.range 96).map probeFrame }
    alertLine := false
    pending := [] }

end Sys2Proof.Machine
end

