-- ==== Sys2Proof/Machine/Geometry.lean ====
section
/-! DEFINITION. Volume geometry and address arithmetic (chapter 1): exact arithmetic on natural numbers. -/

namespace Sys2Proof.Machine

open Sys2Proof

/-- The column count N of a descriptor (R1). -/
def Descriptor.columns (d : Descriptor) : Nat := d.members.length

/-- The data columns of a row, N − 1 (R1). -/
def Descriptor.dataColumns (d : Descriptor) : Nat := d.columns - 1

/-- The capacity of a layout in blocks (R5). -/
def Descriptor.capacity (d : Descriptor) : Nat := d.rows * d.dataColumns * d.chunk

/-- The number of chunks of data a layout holds: Dsrc for the current layout (R6). -/
def Descriptor.chunks (d : Descriptor) : Nat := d.rows * d.dataColumns

/-- The values a chunk size may take (R1). -/
def chunkSizes : List Nat := [1, 2, 4, 8, 16, 32]

/-- Whether a member list names no member twice (R1). -/
def noDuplicate : List Nat → Bool
  | [] => true
  | m :: ms => !ms.contains m && noDuplicate ms

/-- A descriptor is well formed (R1, R5). -/
def Descriptor.wellFormed (d : Descriptor) : Bool :=
  3 ≤ d.columns && d.columns ≤ 24 && chunkSizes.contains d.chunk && 1 ≤ d.rows
    && d.members.all (fun m => m < Config.memberCount) && noDuplicate d.members
    && d.capacity < Config.capacityLimit

/-- The member of a column (R1). -/
def Descriptor.member (d : Descriptor) (column : Nat) : Nat := d.members.getD column 0

/-- The row count that the smallest capacity of the members allows (R4). -/
def rowsFor (chunk smallest : Nat) : Nat := (smallest - Config.firstDataBlock) / chunk

/-- The smallest of some capacities (R4). -/
def smallest : List Nat → Nat
  | [] => 0
  | [c] => c
  | c :: cs => min c (smallest cs)

/-- The chunk number of an LBA (R6). -/
def chunkOf (chunk lba : Nat) : Nat := lba / chunk

/-- The offset of an LBA in its chunk (R6). -/
def offsetOf (chunk lba : Nat) : Nat := lba % chunk

/-- The row of a chunk in a layout of `columns` columns (R7). -/
def rowOf (columns d : Nat) : Nat := d / (columns - 1)

/-- The data position of a chunk in its row (R7). -/
def positionOf (columns d : Nat) : Nat := d % (columns - 1)

/-- The parity column of a row (R7). -/
def parityColumn (columns row : Nat) : Nat := row % columns

/-- The data column of a data position of a row (R7). -/
def dataColumn (columns row position : Nat) : Nat := (parityColumn columns row + 1 + position) % columns

/-- The data position of a column of a row that is not the parity column (R8). -/
def positionOfColumn (columns row column : Nat) : Nat :=
  (column + columns - parityColumn columns row - 1) % columns

/-- The first member block of offset `offset` of a row (R7, R9). -/
def memberBlock (chunk row offset : Nat) : Nat := Config.firstDataBlock + row * chunk + offset

/-- The row of a member block of the data region (R8). -/
def rowOfBlock (chunk block : Nat) : Nat := (block - Config.firstDataBlock) / chunk

/-- The offset of a member block of the data region in its chunk (R8). -/
def offsetOfBlock (chunk block : Nat) : Nat := (block - Config.firstDataBlock) % chunk

/-- The place of `count` blocks from offset `offset` of chunk `d` in a layout (R7). -/
def placeOf (layout : Layout) (desc : Descriptor) (d offset count : Nat) : Place :=
  let row := rowOf desc.columns d
  { layout := layout, row := row, column := dataColumn desc.columns row (positionOf desc.columns d)
    offset := offset, count := count }

/-- The last copy row of an expansion, kc (R15). -/
def lastCopyRow (current target : Descriptor) : Nat := (current.chunks - 1) / target.dataColumns

/-- The number of source chunks of a target row (R14, R15, R75). -/
def sourceChunks (current target : Descriptor) (row : Nat) : Nat :=
  min target.dataColumns (current.chunks - row * target.dataColumns)

/-- The lowest target row that holds chunks of current row `k` (R18). -/
def lowestTargetRow (columns columns' k : Nat) : Nat := k * (columns - 1) / (columns' - 1)

/-- The highest target row that holds chunks of current row `k` (R18). -/
def highestTargetRow (columns columns' k : Nat) : Nat := ((k + 1) * (columns - 1) - 1) / (columns' - 1)

/-- Current row `k` is critical: one of its own chunks lies in target row `k` (R19). -/
def criticalRow (columns columns' k : Nat) : Bool := highestTargetRow columns columns' k == k

/-- The guard threshold of a row (R20). -/
def guardThreshold (columns columns' k : Nat) : Nat := highestTargetRow columns columns' k + 1

/-- The number of pieces a request needs (R11). -/
def pieceCount (chunk lba count : Nat) : Nat := (lba + count - 1) / chunk - lba / chunk + 1

/-- Piece `index` of a request: the blocks of the request that fall in chunk `d_first + index` (R11). It waits. -/
def pieceOf (chunk : Nat) (direction : Direction) (lba count index : Nat) : Piece :=
  let d := lba / chunk + index
  let first := max lba (d * chunk)
  let past := min (lba + count) ((d + 1) * chunk)
  { index := index, direction := direction, lba := first, count := past - first, chunk := d, cls := none
    state := .waiting, place := none, slot := none, outcome := none }

/-- The pieces of a request, in ascending LBA order (R11). -/
def splitRequest (chunk : Nat) (direction : Direction) (lba count : Nat) : List Piece :=
  (List.range (pieceCount chunk lba count)).map (pieceOf chunk direction lba count)

/-- A target descriptor relates to the current one (R13), the capacities of the added members apart. -/
def relatedTarget (current target : Descriptor) : Bool :=
  target.chunk == current.chunk && target.rows == current.rows && current.columns < target.columns
    && target.members.take current.columns == current.members

end Sys2Proof.Machine
end

