-- ==== Sys2Proof/Machine/Record.lean ====
section
/-! DEFINITION. The layout record: its fields, the block that holds them, and the tests that make a block a valid
record (R96, R97, R199). -/

namespace Sys2Proof.Machine

open Sys2Proof

/-- The fields of a layout record (R96). -/
structure Record where
  generation : BitVec 64
  volume : VolumeState
  current : Descriptor
  target : Option Descriptor
  mark : Nat
  stage : Option (Nat × Nat)
  deriving DecidableEq, Repr

/-- The format word (R96). -/
def formatWord : Nat := 0x6A2460F1

/-- The code of a volume state (R184, R199). -/
def VolumeState.code : VolumeState → Nat
  | .discovering => 0
  | .unformed => 1
  | .initializing => 2
  | .stable => 3
  | .expanding => 4

/-- The volume state that a record's code names (R199). -/
def recordState : Nat → Option VolumeState
  | 2 => some .initializing
  | 3 => some .stable
  | 4 => some .expanding
  | _ => none

/-- A descriptor block of 32 bytes: N, C, R and 24 member list entries, those from N on zero (R199). -/
def Descriptor.bytes (d : Descriptor) : List Byte :=
  leBytes 1 d.columns ++ leBytes 1 d.chunk ++ leBytes 6 d.rows
    ++ bytesFrom (d.members.map (BitVec.ofNat 8)) 0 24

/-- The descriptor block of a descriptor that may be absent: then all zero (R199, R187). -/
def descriptorBytes (d : Option Descriptor) : List Byte :=
  match d with
  | some d => d.bytes
  | none => List.replicate 32 0

/-- The presence flags of a record (R199). -/
def Record.flags (r : Record) : Nat := (if r.target.isSome then 1 else 0) + (if r.stage.isSome then 2 else 0)

/-- Bytes 0 to 95 of a record (R199). -/
def Record.head (r : Record) : List Byte :=
  leBytes 4 formatWord ++ leBytes 8 r.generation.toNat ++ leBytes 1 r.volume.code ++ leBytes 1 r.flags
    ++ leBytes 2 0 ++ leBytes 6 r.mark ++ leBytes 6 ((r.stage.map Prod.fst).getD 0)
    ++ leBytes 1 ((r.stage.map Prod.snd).getD 0) ++ leBytes 3 0
    ++ r.current.bytes ++ descriptorBytes r.target

/-- The record block before its check word: every byte that no field names is 0 (R199). -/
def Record.body (r : Record) : Block := BitVec.ofNat 32768 (leNat r.head)

/-- The check word: what makes the sum of all 1024 words 0 modulo 2^32 (R97). -/
def checkWord (b : Block) : BitVec 32 := 0 - sumWords b 1023

/-- The record block, its check word in place (R97, R199). -/
def Record.block (r : Record) : Block :=
  r.body ||| ((checkWord r.body).setWidth 32768 <<< (32 * 1023))

/-- A descriptor block as it stands in a block from byte `at` (R199). The list ends where byte 0 says. -/
def readDescriptor (b : Block) (start : Nat) : Descriptor :=
  { chunk := fieldAt b (start + 1) 1, rows := fieldAt b (start + 2) 6
    members := (List.range (min (fieldAt b start 1) 24)).map (fun i => fieldAt b (start + 8 + i) 1) }

/-- The column count byte of a descriptor block is in its range (R1). -/
def columnsInRange (b : Block) (start : Nat) : Bool := 3 ≤ fieldAt b start 1 && fieldAt b start 1 ≤ 24

/-- The tests of R97 on decoded fields, with the range that R96 gives a staged row, 0 to R − 1: R97 names it as CM
alone, which a record may declare as R (log entry 12). -/
def Record.valid (r : Record) : Bool :=
  r.current.wellFormed
    && (match r.target with
        | some t => t.wellFormed && relatedTarget r.current t && r.volume == .expanding
        | none => r.volume != .expanding)
    && r.mark ≤ r.current.rows
    && (r.volume != .stable || r.mark == 0)
    && (match r.stage with
        | some (row, column) =>
            r.volume == .expanding && row == r.mark && row < r.current.rows && r.current.columns ≤ column
              && column < (r.target.map Descriptor.columns).getD 0
        | none => true)

/-- The valid record that a block holds, or none (R97, R199). A valid record's generation is never 0 (R96, R187; log
entry 12). -/
def readRecord (b : Block) : Option Record :=
  if fieldAt b 0 4 == formatWord && sumWords b 1024 == 0 then
    match recordState (fieldAt b 12 1) with
    | none => none
    | some volume =>
      let flags := byteAt b 13
      let hasTarget := flags.getLsbD 0
      let hasStage := flags.getLsbD 1
      let r : Record :=
        { generation := BitVec.ofNat 64 (fieldAt b 4 8), volume := volume, current := readDescriptor b 32
          target := if hasTarget then some (readDescriptor b 64) else none
          mark := fieldAt b 16 6
          stage := if hasStage then some (fieldAt b 22 6, fieldAt b 28 1) else none }
      if columnsInRange b 32 && (!hasTarget || columnsInRange b 64) && r.generation != 0 && r.valid then some r
      else none
  else none

/-- The members that a record's own layout depends on (R166). -/
def Record.columns (r : Record) : List Nat :=
  match r.target with
  | some t => t.members
  | none => r.current.members

end Sys2Proof.Machine
end

