-- ==== Sys2Proof/Machine/Ops.lean ====
section
/-! DEFINITION. The named operations over the state that every block shares: the member table and layout health, the
row slots, the request table and its pieces, alert causes, frames handed over for sending, and the inner actions of
an event. -/

namespace Sys2Proof.Machine

open Sys2Proof

/-! Inner actions and frames. -/

/-- Inner actions still to be taken in this event, after those already there. -/
def Bridge.push (b : Bridge) (actions : List Action) : Bridge := { b with work := b.work ++ actions }

/-- Hand a frame over for sending. -/
def Bridge.send (b : Bridge) (o : Output) : Bridge := { b with sent := b.sent ++ [o] }

/-! Alert causes (R184, R194). -/

/-- Alert cause CAPTURE. -/
def causeCapture : BitVec 5 := 0x01
/-- Alert cause MEMBER. -/
def causeMember : BitVec 5 := 0x02
/-- Alert cause HELD. -/
def causeHeld : BitVec 5 := 0x04
/-- Alert cause DONE. -/
def causeDone : BitVec 5 := 0x08
/-- Alert cause FAILED. -/
def causeFailed : BitVec 5 := 0x10

/-- Set an alert cause; one already set stays set (R194). -/
def Bridge.raise (b : Bridge) (cause : BitVec 5) : Bridge := { b with causes := b.causes ||| cause }

/-! The engine's descriptors and the volume. -/

/-- The descriptor of a layout, when the engine holds one (R2, R169). -/
def Engine.descriptor (e : Engine) : Layout → Option Descriptor
  | .current => e.current
  | .target => e.target

/-- The descriptor of a layout as the part shows it: until discovery ends neither is present (R2), though the engine takes
its values from the chosen record before that (R169; log entry 22). -/
def Engine.presentDescriptor (e : Engine) (l : Layout) : Option Descriptor :=
  if e.volume == .discovering then none else e.descriptor l

/-- The visible capacity (R68). -/
def Engine.visibleCapacity (e : Engine) : Nat :=
  match e.volume with
  | .stable | .expanding => (e.current.map Descriptor.capacity).getD 0
  | .discovering | .unformed | .initializing => 0

/-- The chunk size of the volume, C (R6). -/
def Engine.chunk (e : Engine) : Nat := (e.current.map Descriptor.chunk).getD 1

/-- The rows of the volume, R (R4). -/
def Engine.rows (e : Engine) : Nat := (e.current.map Descriptor.rows).getD 0

/-- The layout that the engine writes: the target layout while the volume is EXPANDING or discovery resumes an
expansion, which is while there is a target descriptor, and the current one otherwise (R81, R172). -/
def Engine.writtenLayout (e : Engine) : Layout := if e.target.isSome then .target else .current

/-- The last copy row of the expansion, when there is one (R15). -/
def Engine.lastCopyRow (e : Engine) : Option Nat :=
  match e.current, e.target with
  | some c, some t => some (Machine.lastCopyRow c t)
  | _, _ => none

/-- Row `k` is critical in the expansion (R19). -/
def Engine.critical (e : Engine) (k : Nat) : Bool :=
  match e.current, e.target with
  | some c, some t => criticalRow c.columns t.columns k
  | _, _ => false

/-- The phase that the done mark gives: FILL while INITIALIZING and past the last copy row, else COPY (R83). -/
def Engine.phaseByMark (e : Engine) : Phase :=
  if e.volume == .initializing then .fill
  else match e.lastCopyRow with
    | some kc => if e.doneMark ≤ kc then .copy else .fill
    | none => .fill

/-- The engine state of a phase (R69). -/
def Phase.engineState : Phase → EngineState
  | .copy => .copy
  | .fill => .fill

/-- The layouts that an engine with these marks needs in a volume state (R72). -/
def Engine.neededIn (e : Engine) : VolumeState → List Layout
  | .initializing => [.current]
  | .expanding =>
      match e.lastCopyRow with
      | some kc => if e.doneMark ≤ kc then [.current, .target] else [.target]
      | none => [.target]
  | .discovering | .unformed | .stable => []

/-- The layouts the engine needs (R72). -/
def Engine.neededLayouts (e : Engine) : List Layout := e.neededIn e.volume

/-- The engine is in COPY or FILL (R69). -/
def Engine.moving (e : Engine) : Bool := e.state == .copy || e.state == .fill

/-! Row slots. -/

/-- A row slot of the engine (R73). -/
def Engine.slot (e : Engine) : SlotId → Slot
  | .a => e.slotA
  | .b => e.slotB

/-- The engine with a row slot changed. -/
def Engine.setSlot (e : Engine) (i : SlotId) (s : Slot) : Engine :=
  match i with
  | .a => { e with slotA := s }
  | .b => { e with slotB := s }

/-- A slot holds a row when it is other than FREE and its row number is that row (R46). -/
def Slot.holds (s : Slot) (row : Nat) : Bool := s.state != .free && s.row == some row

/-- The slot that holds a row, when one does (R46). -/
def Engine.slotHolding (e : Engine) (row : Nat) : Option SlotId :=
  if e.slotA.holds row then some .a else if e.slotB.holds row then some .b else none

/-- A slot is in STAGING or WRITING (R88). -/
def Slot.leaving (s : Slot) : Bool := s.state == .staging || s.state == .writing

/-- The bridge with its engine changed. -/
def Bridge.onEngine (b : Bridge) (f : Engine → Engine) : Bridge := { b with engine := f b.engine }

/-- The bridge with one row slot changed. -/
def Bridge.onSlot (b : Bridge) (i : SlotId) (f : Slot → Slot) : Bridge :=
  b.onEngine (fun e => e.setSlot i (f (e.slot i)))

/-! The member table and layout health. -/

/-- The entry of a member (R143). -/
def Bridge.member (b : Bridge) (m : Nat) : Member := b.members.getD m Member.reset

/-- A member counts as failed when it is FAILED or STALE (R72). -/
def MemberState.isFailed : MemberState → Bool
  | .failed | .stale => true
  | .empty | .present | .online => false

/-- A member is FAILED or STALE (R72). -/
def Bridge.memberFailed (b : Bridge) (m : Nat) : Bool := (b.member m).state.isFailed

/-- A member is ONLINE (R144). -/
def Bridge.memberOnline (b : Bridge) (m : Nat) : Bool := (b.member m).state == .online

/-- The number of failed columns of a layout (R120). -/
def failedColumns (members : List Member) (d : Descriptor) : Nat :=
  (d.members.filter (fun m => (members.getD m Member.reset).state.isFailed)).length

/-- The health of a layout, from the number of its failed columns (R120). -/
def layoutHealth (members : List Member) : Option Descriptor → Health
  | none => .absent
  | some d =>
      match failedColumns members d with
      | 0 => .ok
      | 1 => .degraded
      | _ => .broken

/-- Compute the health of both layouts anew (R120). -/
def Bridge.refreshHealth (b : Bridge) : Bridge :=
  { b with parity := { b.parity with
      healthCurrent := layoutHealth b.members b.engine.current
      healthTarget := layoutHealth b.members b.engine.target } }

/-- The health of a layout as the parity unit keeps it (R120). -/
def Bridge.health (b : Bridge) : Layout → Health
  | .current => b.parity.healthCurrent
  | .target => b.parity.healthTarget

/-- A layout is BROKEN (R120). -/
def Bridge.broken (b : Bridge) (l : Layout) : Bool := b.health l == .broken

/-- Change one member's entry; the health is computed anew in the same event (R120). -/
def Bridge.onMember (b : Bridge) (m : Nat) (f : Member → Member) : Bridge :=
  { b with members := b.members.modify m f }.refreshHealth

/-- The member of a column of a layout (R1). -/
def Bridge.columnMember (b : Bridge) (l : Layout) (column : Nat) : Nat :=
  ((b.engine.descriptor l).map (fun d => d.member column)).getD 0

/-- The column count of a layout (R1). -/
def Bridge.layoutColumns (b : Bridge) (l : Layout) : Nat :=
  ((b.engine.descriptor l).map Descriptor.columns).getD 0

/-- The first member block of a place (R7, R12). -/
def Bridge.placeBlock (b : Bridge) (p : Place) : Nat := memberBlock b.engine.chunk p.row p.offset

/-- The ONLINE members of a layout, in column order (R99). -/
def Bridge.onlineMembers (b : Bridge) (l : Layout) : List Nat :=
  ((b.engine.descriptor l).map Descriptor.members).getD [] |>.filter b.memberOnline

/-- A member is a column of a layout that the engine needs (R93). -/
def Bridge.neededColumn (b : Bridge) (m : Nat) : Bool :=
  b.engine.neededLayouts.any (fun l => ((b.engine.descriptor l).map (fun d => d.members.contains m)).getD false)

/-! The request table and its pieces. -/

/-- The outstanding request of a tag (R23). -/
def ArrayPort.request? (p : ArrayPort) (tag : Nat) : Option Request := p.table.find? (fun r => r.tag == tag)

/-- A tag is outstanding (R23). -/
def ArrayPort.outstanding (p : ArrayPort) (tag : Nat) : Bool := (p.request? tag).isSome

/-- The piece of an outstanding request. -/
def Bridge.piece? (b : Bridge) (tag index : Nat) : Option Piece :=
  (b.port.request? tag).bind (fun r => r.pieces.find? (fun p => p.index == index))

/-- The bridge with the request of a tag changed. -/
def Bridge.onRequest (b : Bridge) (tag : Nat) (f : Request → Request) : Bridge :=
  { b with port := { b.port with table := b.port.table.map (fun r => if r.tag == tag then f r else r) } }

/-- The bridge with one piece changed. -/
def Bridge.onPiece (b : Bridge) (tag index : Nat) (f : Piece → Piece) : Bridge :=
  b.onRequest tag (fun r => { r with pieces := r.pieces.map (fun p => if p.index == index then f p else p) })

/-- The data of a write piece, from its request's buffer (R27). -/
def Bridge.pieceData (b : Bridge) (tag index : Nat) : List Block :=
  match b.port.request? tag, b.piece? tag index with
  | some r, some p => (r.buffer.drop (p.lba - r.lba)).take p.count
  | _, _ => []

/-- The pieces free in the pool: 512 less those of the requests in the table (R29). -/
def ArrayPort.freePieces (p : ArrayPort) : Nat :=
  Config.poolPieces - (p.table.map (fun r => r.pieces.length)).sum

/-- A request counts in F (R41). -/
def RequestKind.counts : RequestKind → Bool
  | .read | .write => true
  | .flush => false

/-- F: the number of READ and WRITE entries in the request table (R41). -/
def foregroundCount (table : List Request) : Nat := (table.filter (fun r => r.kind.counts)).length

/-- The pacing mode after a change of F (R153). -/
def pacingAfter (cfg : Settings) (before : Pacing) (f : Nat) : Pacing :=
  match before with
  | .normal => if cfg.yieldEnter ≤ f then .yield else .normal
  | .yield => if f ≤ cfg.yieldExit then .normal else .yield

/-- F has changed with the table: the count is taken anew and the load monitor tests the pacing mode (R41, R153). -/
def Bridge.foregroundChanged (cfg : Settings) (b : Bridge) : Bridge :=
  let f := foregroundCount b.port.table
  { b with port := { b.port with foreground := f }, pacing := pacingAfter cfg b.pacing f }

/-- Arrival number `a` is earlier than `b`: the distance from `a` to `b` lies in 1 to 2^31 − 1 (R28). -/
def arrivalEarlier (a b : BitVec 32) : Bool := 1 ≤ (b - a).toNat && (b - a).toNat ≤ 2 ^ 31 - 1

/-- Two runs of LBAs share at least one (R31). -/
def rangesOverlap (lba count lba' count' : Nat) : Bool :=
  lba < lba' + count' && lba' < lba + count && 0 < count && 0 < count'

/-! Completion frames (R197). -/

/-- The status byte of a completion frame (R197). -/
def Status.code : Status → Byte
  | .good => 0x00
  | .busy => 0x01
  | .range => 0x02
  | .invalid => 0x03
  | .lost => 0x04
  | .fenced => 0x05

/-- The completion status of a request (R35). -/
def PieceOutcome.status : PieceOutcome → Status
  | .good => .good
  | .lost => .lost

/-- A completion frame of a tag byte and a status (R197). -/
def completionFrame (tag : Byte) (status : Status) (blocks : List Block) : Output :=
  .arrayFrame [tag, status.code] blocks

end Sys2Proof.Machine
end

