-- ==== Sys2Proof/Machine/Shelf.lean ====
section
/-! DEFINITION. The shelf ports: steps and class queues, grants and their order, and command timers (chapters 7
and 8). -/

namespace Sys2Proof.Machine

open Sys2Proof

/-- The port of a member (R143). -/
def shelfOf (member : Nat) : Nat := member / Config.shelfSlots

/-- The slot of a member on its shelf (R143). -/
def slotOf (member : Nat) : Nat := member % Config.shelfSlots

/-- A shelf port. -/
def Bridge.shelf (b : Bridge) (p : Nat) : ShelfPort := b.shelves.getD p ShelfPort.reset

/-- The bridge with one shelf port changed. -/
def Bridge.onShelf (b : Bridge) (p : Nat) (f : ShelfPort → ShelfPort) : Bridge :=
  { b with shelves := b.shelves.modify p f }

/-- The class in which an issuer sends (R136): the parity unit's steps of a piece are foreground, those of a gather
chunk are migration. -/
def Issuer.cls : Issuer → CommandClass
  | .plainRead _ _ => .foreground
  | .service (.piece _ _) _ => .foreground
  | .service (.chunk _) _ => .migration
  | .gather _ => .migration
  | .writeOut _ => .migration
  | .stageWrite => .migration
  | .checkpoint => .migration
  | .stageRead _ => .migration
  | .admitProbe => .migration
  | .discoveryProbe => .migration
  | .recordRead _ => .migration

/-- A command of the restripe engine, a step of a gather chunk at the parity unit among them (R136). The reads of a stage
copy are discovery's (R172). -/
def Issuer.ofEngine : Issuer → Bool
  | .service (.chunk _) _ | .gather _ | .writeOut _ | .stageWrite | .checkpoint => true
  | .service (.piece _ _) _ | .plainRead _ _ | .stageRead _ | .admitProbe | .discoveryProbe | .recordRead _ => false

/-- The kind byte of a drive command (R198). -/
def DriveKind.code : DriveKind → Byte
  | .dread => 0x01
  | .dwrite => 0x02
  | .dprobe => 0x03

/-- The frame of a drive command under a tag (R198). -/
def driveFrame (tag : Nat) (c : DriveCommand) : Output :=
  .shelfFrame (shelfOf c.member)
    ([c.kind.code, BitVec.ofNat 8 tag, BitVec.ofNat 8 (slotOf c.member)] ++ leBytes 6 c.block ++ leBytes 1 c.count)
    c.payload

/-! Steps and queues (R137). -/

/-- The queue of a class at a port. -/
def ShelfPort.queue (p : ShelfPort) : CommandClass → List DriveCommand
  | .foreground => p.foreground
  | .migration => p.migration

/-- The room of a class queue (7.2). -/
def CommandClass.room : CommandClass → Nat
  | .foreground => Config.foregroundRoom
  | .migration => Config.migrationRoom

/-- A command joins the tail of its class queue. The starvation timer starts from zero when the migration queue goes
from empty to holding a command (R136, R156). -/
def ShelfPort.join (p : ShelfPort) (c : DriveCommand) : ShelfPort :=
  match c.issuer.cls with
  | .foreground => { p with foreground := p.foreground ++ [c] }
  | .migration =>
      { p with
        migration := p.migration ++ [c]
        starvation := if p.migration.isEmpty then some 0 else p.starvation }

/-- Every queue a step needs has room for its commands on that port (R137). -/
def Bridge.fits (b : Bridge) (cls : CommandClass) (step : List DriveCommand) : Bool :=
  (List.range Config.shelfPorts).all (fun p =>
    let needed := (step.filter (fun c => shelfOf c.member == p)).length
    needed == 0 || ((b.shelf p).queue cls).length + needed ≤ cls.room)

/-- All commands of a step join their queues (R137). -/
def Bridge.enqueue (b : Bridge) (step : List DriveCommand) : Bridge :=
  step.foldl (fun b c => b.onShelf (shelfOf c.member) (fun p => p.join c)) b

/-- The step wait list of a class (R137). -/
def Bridge.waitList (b : Bridge) : CommandClass → List (List DriveCommand)
  | .foreground => b.foregroundWait
  | .migration => b.migrationWait

/-- The bridge with a step wait list set. -/
def Bridge.setWaitList (b : Bridge) (cls : CommandClass) (steps : List (List DriveCommand)) : Bridge :=
  match cls with
  | .foreground => { b with foregroundWait := steps }
  | .migration => { b with migrationWait := steps }

/-- An issuer hands over a step of a class. A command to a FAILED or STALE member ends as failed in this event (R147).
The others join their queues together, or the step joins its class's step wait list (R137). -/
def Bridge.issueStep (b : Bridge) (cls : CommandClass) (step : List DriveCommand) : Bridge :=
  let dead := step.filter (fun c => b.memberFailed c.member)
  let live := step.filter (fun c => !b.memberFailed c.member)
  let b := b.push (dead.map (fun c => .deliver c .failed))
  if live.isEmpty then b
  else if (b.waitList cls).isEmpty && b.fits cls live then b.enqueue live
  else b.setWaitList cls (b.waitList cls ++ [live])

/-- The head of a step wait list, when it fits, leaves the list and its commands are queued (R137). -/
def Bridge.admitWaiting (b : Bridge) (cls : CommandClass) : Option Bridge :=
  match b.waitList cls with
  | [] => none
  | step :: rest => if b.fits cls step then some ((b.setWaitList cls rest).enqueue step) else none

/-! Grants (R135, R156, R158). -/

/-- The lowest tag not in a drive command table, of the tags below `bound` (R135). -/
def lowestFree (table : List TagEntry) (bound : Nat) : Nat :=
  ((List.range bound).find? (fun t => !table.any (fun e => e.tag == t))).getD 0

/-- The starvation timer has run out: it has run for starve_limit or longer (R156). -/
def ShelfPort.starved (cfg : Settings) (p : ShelfPort) : Bool :=
  match p.starvation with
  | some elapsed => cfg.starveLimit ≤ elapsed
  | none => false

/-- The class of a port's next grant, none when both queues are empty (R158). -/
def grantClass (cfg : Settings) (mode : Pacing) (p : ShelfPort) : Option CommandClass :=
  match p.foreground.isEmpty, p.migration.isEmpty with
  | true, true => none
  | false, true => some .foreground
  | true, false => some .migration
  | false, false =>
      match mode with
      | .normal => if p.grants < cfg.weight then some .foreground else some .migration
      | .yield => if p.starved cfg then some .migration else some .foreground

/-- A table entry in its place by tag. -/
def insertEntry (e : TagEntry) : List TagEntry → List TagEntry
  | [] => [e]
  | x :: xs => if e.tag < x.tag then e :: x :: xs else x :: insertEntry e xs

/-- The arbiter state after a grant, the queue's head already removed (R156). -/
def ShelfPort.granted (cfg : Settings) (p : ShelfPort) : CommandClass → ShelfPort
  | .foreground => { p with grants := min (p.grants + 1) cfg.weight }
  | .migration => { p with grants := 0, starvation := if p.migration.isEmpty then none else some 0 }

/-- The port with the head of a class queue taken out, and that command. -/
def ShelfPort.takeHead (p : ShelfPort) : CommandClass → Option (DriveCommand × ShelfPort)
  | .foreground =>
      match p.foreground with
      | [] => none
      | c :: cs => some (c, { p with foreground := cs })
  | .migration =>
      match p.migration with
      | [] => none
      | c :: cs => some (c, { p with migration := cs })

/-- One grant at a port, when it has a free tag and a command queued: the command gets the lowest free tag and its table
entry with attempt 1, is sent, and its timer starts with cmd_timeout (R135, R139). -/
def Bridge.grantAt (cfg : Settings) (b : Bridge) (port : Nat) : Option Bridge :=
  let p := b.shelf port
  if p.table.length < Config.driveTags then
    match grantClass cfg b.pacing p with
    | none => none
    | some cls =>
        match p.takeHead cls with
        | none => none
        | some (c, p') =>
            let tag := lowestFree p'.table Config.driveTags
            let entry : TagEntry := { tag := tag, command := c, cls := cls, attempt := 1, timer := cfg.cmdTimeout }
            let p'' := ({ p' with table := insertEntry entry p'.table }).granted cfg cls
            some ((b.onShelf port (fun _ => p'')).send (driveFrame tag c))
  else none

/-- The next act of the shelf ports, none when they are at rest: a waiting step that fits is queued, else the first port
that can grant makes one grant (R135, R137, R159). -/
def Bridge.pump (cfg : Settings) (b : Bridge) : Option Bridge :=
  match b.admitWaiting .foreground with
  | some b' => some b'
  | none =>
      match b.admitWaiting .migration with
      | some b' => some b'
      | none => (List.range Config.shelfPorts).findSome? (b.grantAt cfg)

/-! Table entries. -/

/-- The entry of an outstanding tag of a port (R134). -/
def Bridge.tagEntry? (b : Bridge) (port tag : Nat) : Option TagEntry :=
  (b.shelf port).table.find? (fun e => e.tag == tag)

/-- A command has ended: its tag is free (R135). -/
def Bridge.freeTag (b : Bridge) (port tag : Nat) : Bridge :=
  b.onShelf port (fun p => { p with table := p.table.filter (fun e => e.tag != tag) })

end Sys2Proof.Machine
end

