-- ==== Sys2Proof/Machine/ParityUnit.lean ====
section
/-! DEFINITION. The parity unit: the row lock table, the choice of the form of service, the steps of each form and how
they end (chapter 6). -/

namespace Sys2Proof.Machine

open Sys2Proof

/-- The service record of some work (6.1). -/
def Bridge.service? (b : Bridge) (w : Work) : Option Service := b.parity.services.find? (fun s => s.work == w)

/-- The bridge with its parity unit changed. -/
def Bridge.onParity (b : Bridge) (f : ParityUnit → ParityUnit) : Bridge := { b with parity := f b.parity }

/-- The bridge with the service record of some work changed. -/
def Bridge.onService (b : Bridge) (w : Work) (f : Service → Service) : Bridge :=
  b.onParity (fun p => { p with services := p.services.map (fun s => if s.work == w then f s else s) })

/-- The bridge without the service record of some work. -/
def Bridge.dropService (b : Bridge) (w : Work) : Bridge :=
  b.onParity (fun p => { p with services := p.services.filter (fun s => s.work != w) })

/-- Work of the engine (R114). -/
def Work.isChunk : Work → Bool
  | .piece _ _ => false
  | .chunk _ => true

/-- The class of the commands of some work (R136). -/
def Work.cls : Work → CommandClass
  | .piece _ _ => .foreground
  | .chunk _ => .migration

/-! Choosing the form of service (R121, R122). -/

/-- The parity column of a service's row (R7). -/
def Bridge.serviceParity (b : Bridge) (s : Service) : Nat :=
  parityColumn (b.layoutColumns s.place.layout) s.place.row

/-- The member of a column of a service's layout. -/
def Bridge.serviceMember (b : Bridge) (s : Service) (column : Nat) : Nat := b.columnMember s.place.layout column

/-- The columns of a service's layout other than its own, in ascending order. -/
def Bridge.otherColumns (b : Bridge) (s : Service) : List Nat :=
  (List.range (b.layoutColumns s.place.layout)).filter (fun c => c != s.place.column)

/-- The data columns of a service's row other than its own, in ascending order (R125). -/
def Bridge.peerColumns (b : Bridge) (s : Service) : List Nat :=
  (b.otherColumns s).filter (fun c => c != b.serviceParity s)

/-- The decision of a write piece: the first row of the table of R121 that holds, with the write step of the form when
the results it uses are complete. None is the outcome LOST. -/
def Bridge.decideWrite (b : Bridge) (s : Service) : Option ServiceStep :=
  if b.broken s.place.layout then none
  else if b.memberFailed (b.serviceMember s (b.serviceParity s)) then some .writeData
  else if b.memberFailed (b.serviceMember s s.place.column) then
    match s.kept with
    | .peers _ => some .recomputeWriteParity
    | .nothing | .old _ _ => some .recomputeReadPeers
  else if !s.unreadable then
    match s.kept with
    | .old _ _ => some .rmwWriteNew
    | .nothing | .peers _ => some .rmwReadOld
  else if (b.peerColumns s).all (fun c => b.memberOnline (b.serviceMember s c)) then
    match s.kept with
    | .peers _ => some .recomputeWriteDataParity
    | .nothing | .old _ _ => some .recomputeReadPeers
  else some .rmwReadOld

/-- The decision of a read piece or a gather chunk: the first row of the table of R122 that holds. None is LOST, or
unservable. -/
def Bridge.decideRead (b : Bridge) (s : Service) : Option ServiceStep :=
  if b.broken s.place.layout then none
  else if b.memberFailed (b.serviceMember s s.place.column) then some .reconstructReadPeers
  else if (b.otherColumns s).all (fun c => b.memberOnline (b.serviceMember s c)) then some .reconstructReadPeers
  else some .rereadReadOwn

/-- The decision of a service (R121, R122). -/
def Bridge.decide (b : Bridge) (s : Service) : Option ServiceStep :=
  if s.write then b.decideWrite s else b.decideRead s

/-! The commands of a step (R123 to R126). -/

/-- A read of a step: the service's blocks on a column (6.4). -/
def Bridge.readCommand (b : Bridge) (s : Service) (column : Nat) (role : StepRole) : DriveCommand :=
  { kind := .dread, member := b.serviceMember s column, block := b.placeBlock s.place, count := s.place.count
    payload := [], issuer := .service s.work role }

/-- A write of a step: blocks to the service's place on a column (6.4). -/
def Bridge.writeCommand (b : Bridge) (s : Service) (column : Nat) (role : StepRole) (blocks : List Block) :
    DriveCommand :=
  { kind := .dwrite, member := b.serviceMember s column, block := b.placeBlock s.place, count := s.place.count
    payload := blocks, issuer := .service s.work role }

/-- The new data of a write service (R52). -/
def Bridge.newData (b : Bridge) (s : Service) : List Block :=
  match s.work with
  | .piece tag index => b.pieceData tag index
  | .chunk _ => []

/-- The new parity of a write step, from the results kept for it (R17, R123, R125). -/
def Bridge.newParity (b : Bridge) (s : Service) : List Block :=
  match s.kept with
  | .old data parity => xorBlocks (xorBlocks parity data) (b.newData s)
  | .peers sum => xorBlocks (b.newData s) sum
  | .nothing => b.newData s

/-- The drive commands of a step, in the order the step lists them (R123 to R126). -/
def Bridge.stepCommands (b : Bridge) (s : Service) : ServiceStep → List DriveCommand
  | .lockWait => []
  | .rmwReadOld => [b.readCommand s s.place.column .own, b.readCommand s (b.serviceParity s) .parity]
  | .rmwWriteNew | .recomputeWriteDataParity =>
      [b.writeCommand s s.place.column .own (b.newData s),
       b.writeCommand s (b.serviceParity s) .parity (b.newParity s)]
  | .recomputeReadPeers => (b.peerColumns s).map (fun c => b.readCommand s c (.peer c))
  | .recomputeWriteParity => [b.writeCommand s (b.serviceParity s) .parity (b.newParity s)]
  | .writeData => [b.writeCommand s s.place.column .own (b.newData s)]
  | .reconstructReadPeers => (b.otherColumns s).map (fun c => b.readCommand s c (.peer c))
  | .rereadReadOwn => [b.readCommand s s.place.column .own]

/-- A step writes (6.4). -/
def ServiceStep.writes : ServiceStep → Bool
  | .rmwWriteNew | .recomputeWriteParity | .recomputeWriteDataParity | .writeData => true
  | .lockWait | .rmwReadOld | .recomputeReadPeers | .reconstructReadPeers | .rereadReadOwn => false

/-- A piece that the parity unit begins to serve leaves LOCK_WAIT for ISSUED (R117). -/
def Bridge.markIssued (b : Bridge) : Work → Bridge
  | .piece tag index => b.onPiece tag index (fun p => { p with state := .issued })
  | .chunk _ => b

/-- A step begins: its commands are issued together (6.4). A read step discards results kept from before; a write step
keeps those it uses (R121, R127). -/
def Bridge.beginStep (b : Bridge) (s : Service) (step : ServiceStep) : Bridge :=
  let commands := b.stepCommands s step
  let b := (b.markIssued s.work).onService s.work (fun s =>
    { s with
      step := step, results := [], outstanding := commands.length
      kept := if step.writes then s.kept else .nothing })
  b.issueStep s.work.cls commands

/-- A decision has ended some work: a piece is LOST, and a gather chunk cannot be served, so the engine fails (R121,
R122, R130). -/
def Bridge.unserved (b : Bridge) : Work → Bridge
  | .piece tag index => b.push [.finishPiece tag index .lost []]
  | .chunk _ => b.push [.failEngine]

/-- Decide the form of a service and begin its step (R121, R122). -/
def Bridge.decideAndBegin (b : Bridge) (s : Service) : Bridge :=
  match b.decide s with
  | none => b.unserved s.work
  | some step => b.beginStep s step

/-! The row lock table (R114 to R118). -/

/-- An entry has the key of a place (R114). -/
def LockEntry.keyed (e : LockEntry) (layout : Layout) (row : Nat) : Bool := e.layout == layout && e.row == row

/-- Work joins the FIFO of the entry with its key (R116). -/
def ParityUnit.joinFifo (p : ParityUnit) (layout : Layout) (row : Nat) (w : Work) : ParityUnit :=
  { p with locks := p.locks.map (fun e => if e.keyed layout row then { e with waiters := e.waiters ++ [w] } else e) }

/-- A piece that must wait for its lock: one that is ISSUED already stays so, any other is placed in LOCK_WAIT
(R116). -/
def Bridge.markWaiting (b : Bridge) : Work → Bridge
  | .piece tag index =>
      b.onPiece tag index (fun p => { p with state := if p.state == .issued then .issued else .lockWait })
  | .chunk _ => b

/-- Work asks for its row lock (R116): it joins the FIFO of the entry with its key, or becomes the holder of a new entry
and begins, or joins the allocation wait list. -/
def Bridge.requestLock (b : Bridge) (s : Service) : Bridge :=
  let layout := s.place.layout
  let row := s.place.row
  if b.parity.locks.any (fun e => e.keyed layout row) then
    (b.onParity (fun p => p.joinFifo layout row s.work)).markWaiting s.work
  else if b.parity.locks.length < Config.lockEntries then
    (b.onParity (fun p =>
      { p with locks := p.locks ++ [{ layout := layout, row := row, holder := s.work, waiters := [] }] })).decideAndBegin s
  else
    (b.onParity (fun p => { p with allocation := p.allocation ++ [s.work] })).markWaiting s.work

/-- Work reaches the parity unit at a place (R116, R121, R122): the form is decided, and the lock asked for when the form needs
it. DATA_ONLY takes none (R115). -/
def Bridge.takeHandOver (b : Bridge) (w : Work) (write : Bool) (place : Place) : Bridge :=
  let s : Service :=
    { work := w, write := write, place := place, step := .lockWait, outstanding := 0, results := [], unreadable := false
      kept := .nothing, withdrawn := false }
  match b.decide s with
  | none => b.unserved w
  | some .writeData => (b.onParity (fun p => { p with services := p.services ++ [s] })).beginStep s .writeData
  | some _ => (b.onParity (fun p => { p with services := p.services ++ [s] })).requestLock s

/-- Work that has been given its lock begins its first step, decided from the states of this event (R117, R127). -/
def Bridge.beginService (b : Bridge) (w : Work) : Bridge :=
  match b.service? w with
  | none => b
  | some s => b.decideAndBegin s

/-- The allocation wait list is taken from head to tail (R117): work whose key has an entry joins its FIFO, other work
takes a free entry as long as there is one and then begins, and the rest stays. -/
def Bridge.takeAllocation (b : Bridge) : Bridge :=
  let waiting := b.parity.allocation
  waiting.foldl
    (fun b w =>
      match b.service? w with
      | none => b
      | some s =>
          let layout := s.place.layout
          let row := s.place.row
          if b.parity.locks.any (fun e => e.keyed layout row) then
            b.onParity (fun p => p.joinFifo layout row w)
          else if b.parity.locks.length < Config.lockEntries then
            (b.onParity (fun p =>
              { p with locks := p.locks ++ [{ layout := layout, row := row, holder := w, waiters := [] }] })).push
                [.beginService w]
          else b.onParity (fun p => { p with allocation := p.allocation ++ [w] }))
    (b.onParity (fun p => { p with allocation := [] }))

/-- A holder releases its lock (R117). Work that holds none changes nothing. -/
def Bridge.releaseLock (b : Bridge) (w : Work) : Bridge :=
  match b.parity.locks.find? (fun e => e.holder == w) with
  | none => b
  | some e =>
      match e.waiters with
      | next :: rest =>
          (b.onParity (fun p =>
            { p with locks := p.locks.map (fun x =>
                if x.keyed e.layout e.row then { x with holder := next, waiters := rest } else x) })).push
              [.beginService next]
      | [] => (b.onParity (fun p => { p with locks := p.locks.filter (fun x => !x.keyed e.layout e.row) })).takeAllocation

/-- A service has ended: its record goes and its lock is released (R117, R128, R130). -/
def Bridge.endService (b : Bridge) (w : Work) : Bridge := (b.dropService w).releaseLock w

/-! The end of a step (R123 to R126). -/

/-- The blocks of an ending that is DGOOD. -/
def Ending.blocks? : Ending → Option (List Block)
  | .good blocks => some blocks
  | .media | .failed => none

/-- A command of a step ended DGOOD. -/
def Ending.isGood (e : Ending) : Bool := e.blocks?.isSome

/-- How the command of a role ended in the step just over. -/
def Service.ended (s : Service) (role : StepRole) : Option Ending :=
  (s.results.find? (fun r => r.1 == role)).map Prod.snd

/-- Every command of the step just over ended DGOOD. -/
def Service.allGood (s : Service) : Bool := s.results.all (fun r => r.2.isGood)

/-- The XOR of the blocks that the step just over has read (R17). -/
def Service.sum (s : Service) : List Block :=
  xorAll s.place.count (s.results.map (fun r => (r.2.blocks?).getD []))

/-- The outcome of a write step (R124). -/
def writeOutcome (data parity : Option Ending) (broken : Bool) : PieceOutcome :=
  if (data.map Ending.isGood).getD false then .good
  else if (parity.map Ending.isGood).getD false && !broken then .good
  else .lost

/-- The unreadable mark and the kept results that the end of READ_OLD leaves (R121, R123). -/
def Service.afterReadOld (s : Service) : Service :=
  match s.ended .own, s.ended .parity with
  | some (.good data), some (.good parity) => { s with unreadable := false, kept := .old data parity }
  | data, parity =>
      { s with unreadable := s.unreadable || data == some .media || parity == some .media, kept := .nothing }

/-- The kept results that the end of READ_PEERS of RECOMPUTE leaves (R125). -/
def Service.afterReadPeers (s : Service) : Service :=
  { s with kept := if s.allGood then .peers s.sum else .nothing }

/-- A read service is served with these blocks (R126): a piece ends GOOD, and a chunk goes to the engine. -/
def Bridge.served (b : Bridge) (w : Work) (blocks : List Block) : Bridge :=
  match w with
  | .piece tag index => b.push [.finishPiece tag index .good blocks]
  | .chunk arrival => (b.push [.gatherPresent arrival blocks]).endService w

/-- Store a changed service record and take the next decision from it. -/
def Bridge.decideAfter (b : Bridge) (s : Service) : Bridge :=
  (b.onService s.work (fun _ => s)).decideAndBegin s

/-- The last command of a step has ended, and the step is judged (R123 to R127). A withdrawn gather chunk's lock is
released and its result discarded (R118). -/
def Bridge.judgeStep (b : Bridge) (s : Service) : Bridge :=
  if s.withdrawn then b.endService s.work
  else
    match s.step with
    | .lockWait => b
    | .rmwReadOld => b.decideAfter s.afterReadOld
    | .recomputeReadPeers => b.decideAfter s.afterReadPeers
    | .rmwWriteNew | .recomputeWriteParity | .recomputeWriteDataParity | .writeData =>
        match s.work with
        | .piece tag index =>
            b.push [.finishPiece tag index (writeOutcome (s.ended .own) (s.ended .parity) (b.broken s.place.layout)) []]
        | .chunk _ => b
    | .reconstructReadPeers => if s.allGood then b.served s.work s.sum else b.decideAndBegin s
    | .rereadReadOwn =>
        match s.ended .own with
        | some (.good blocks) => b.served s.work blocks
        | _ => b.decideAndBegin s

/-- The step of some work is judged, when there is still a service of it. -/
def Bridge.judgeWork (b : Bridge) (w : Work) : Bridge :=
  match b.service? w with
  | none => b
  | some s => b.judgeStep s

/-- A service with one more command of its step ended. -/
def Service.commandEnded (s : Service) (role : StepRole) (ending : Ending) : Service :=
  { s with results := s.results ++ [(role, ending)], outstanding := s.outstanding - 1 }

/-- A command of a step of the parity unit has ended; with the last one the step is judged (R123 to R126). -/
def Bridge.stepCommandEnded (b : Bridge) (w : Work) (role : StepRole) (ending : Ending) : Bridge :=
  match b.service? w with
  | none => b
  | some s =>
      let b := b.onService w (fun s => s.commandEnded role ending)
      if s.outstanding ≤ 1 then b.push [.judgeStep w] else b

/-- A step of the parity unit has been withdrawn from its step wait list, with none of its commands issued: it has no
results, those kept for a write step apart, and the form is decided again (R127). -/
def Bridge.withdrawStep (b : Bridge) (w : Work) : Bridge :=
  (b.onService w (fun s => { s with results := [], outstanding := 0 })).push [.decideAgain w]

/-- The decision after a step has been withdrawn (R127). A withdrawn gather chunk's lock is released (R118). -/
def Bridge.decideAgain (b : Bridge) (w : Work) : Bridge :=
  match b.service? w with
  | none => b
  | some s => if s.withdrawn then b.endService w else b.decideAndBegin s

/-- Some work holds a row lock (R114). -/
def ParityUnit.isHolder (p : ParityUnit) (w : Work) : Bool := p.locks.any (fun e => e.holder == w)

/-- The engine's lock work is withdrawn (R118): waiting gather chunks are removed, and a holding chunk releases its lock
at once when it has no command outstanding, or else when its last one ends. -/
def Bridge.withdrawChunks (b : Bridge) : Bridge :=
  let chunks := b.parity.services.filter (fun s => s.work.isChunk)
  let idle := chunks.filter (fun s => s.outstanding == 0 && b.parity.isHolder s.work)
  let b := b.onParity (fun p =>
    { p with
      locks := p.locks.map (fun e => { e with waiters := e.waiters.filter (fun w => !w.isChunk) })
      allocation := p.allocation.filter (fun w => !w.isChunk)
      services := (p.services.filter (fun s => !(s.work.isChunk && !p.isHolder s.work))).map
        (fun s => if s.work.isChunk then { s with withdrawn := true } else s) })
  idle.foldl (fun b s => b.endService s.work) b

/-- The final checkpoint of an expansion makes every key of the target layout a key of the current layout (R119). -/
def Layout.afterFinal (_ : Layout) : Layout := .current

/-- The lock table and the service records after the final checkpoint of an expansion (R119). -/
def ParityUnit.targetBecomesCurrent (p : ParityUnit) : ParityUnit :=
  { p with
    locks := p.locks.map (fun e => { e with layout := e.layout.afterFinal })
    services := p.services.map (fun s => { s with place := { s.place with layout := s.place.layout.afterFinal } }) }

end Sys2Proof.Machine
end

