-- ==== Sys2Proof/Machine/Router.lean ====
section
/-! DEFINITION. The end of pieces and requests (2.6), the overlap order (2.5), and the router: the class of a piece, how
each class is served, parking, and the write-out gate (chapter 3). -/

namespace Sys2Proof.Machine

open Sys2Proof

/-! Requests complete (R35, R37). -/

/-- A request completes: its completion frame is sent, and its entry, tag and pieces are free (R35). A READ that
completes GOOD carries its return buffer. -/
def Bridge.sendCompletion (b : Bridge) (r : Request) : Bridge :=
  let blocks := if r.kind == .read && r.status == .good then r.buffer else []
  ({ b with port := { b.port with table := b.port.table.filter (fun x => x.tag != r.tag) } }).send
    (completionFrame (BitVec.ofNat 8 r.tag) r.status.status blocks)

/-- A FLUSH waits for an outstanding request of earlier arrival number (R37). -/
def ArrayPort.flushWaits (p : ArrayPort) (flush : Request) : Bool :=
  p.table.any (fun r => r.tag != flush.tag && arrivalEarlier r.arrival flush.arrival)

/-- Every outstanding FLUSH is tested, earliest first, and completes when no earlier request is left (R37). -/
def Bridge.testFlushes (b : Bridge) : Bridge :=
  (b.port.table.filter (fun r => r.kind == .flush)).foldl
    (fun b r => if b.port.flushWaits r then b else b.sendCompletion r) b

/-- Every piece of a request is DONE (R35). -/
def Request.finished (r : Request) : Bool := r.pieces.all (fun p => p.state == .done)

/-- A READ or WRITE whose last piece is DONE completes: the frame is sent, F falls and the load monitor tests the pacing
mode, and the outstanding FLUSH requests are tested (R35, R41, R153). -/
def Bridge.testRequest (cfg : Settings) (b : Bridge) (tag : Nat) : Bridge :=
  match b.port.request? tag with
  | none => b
  | some r => if r.finished then ((b.sendCompletion r).foregroundChanged cfg).testFlushes else b

/-! A piece ends (R34, R55, R63, R128). -/

/-- The array port records the end of a piece: its outcome, a read piece's data, and a LOST status (R34). -/
def Bridge.recordDone (b : Bridge) (tag index : Nat) (outcome : PieceOutcome) (blocks : List Block) : Bridge :=
  match b.piece? tag index with
  | none => b
  | some p =>
      let b := b.onPiece tag index (fun p => { p with state := .done, outcome := some outcome })
      b.onRequest tag (fun r =>
        { r with
          status := if outcome == .lost then .lost else r.status
          buffer := if p.direction == .read && outcome == .good then spliceAt r.buffer (p.lba - r.lba) blocks
            else r.buffer })

/-- A closed gate opens when no entry of the current-layout set has its row (R64). -/
def Bridge.testGate (b : Bridge) : Bridge :=
  match b.router.gate with
  | none => b
  | some k =>
      if b.router.inCurrent.any (fun e => e.row == k) then b
      else ({ b with router := { b.router with gate := none } }).push [.gateOpened k]

/-- The router takes an ended piece out of the current-layout set, and lowers the count of the slot it had raised
(R55, R57, R63). -/
def Bridge.routerDone (b : Bridge) (tag index : Nat) (slot : Option SlotId) : Bridge :=
  let b := { b with router := { b.router with
    inCurrent := b.router.inCurrent.filter (fun e => !(e.tag == tag && e.index == index)) } }
  let b := match slot with
    | none => b
    | some i => b.onSlot i (fun s => { s with pending := s.pending - 1 })
  b.testGate

/-- A piece ends with an outcome: toward the array port, then the router, then its lock (R34, R128). -/
def Bridge.finishPiece (cfg : Settings) (b : Bridge) (tag index : Nat) (outcome : PieceOutcome)
    (blocks : List Block) : Bridge :=
  match b.piece? tag index with
  | none => b
  | some p =>
      let b := (b.recordDone tag index outcome blocks).testRequest cfg tag
      (b.routerDone tag index p.slot).endService (.piece tag index)

/-! The overlap order (R31, R32, R33). -/

/-- A piece still counts in the overlap order while it is not DONE (R31). -/
def Piece.outstanding (p : Piece) : Bool := p.state != .done

/-- An outstanding piece of an earlier request overlaps these blocks, a write, or, where `writesToo`, any piece
(R31). -/
def ArrayPort.heldByPiece (p : ArrayPort) (arrival : BitVec 32) (lba count : Nat) (write : Bool) : Bool :=
  p.table.any (fun r => arrivalEarlier r.arrival arrival && r.pieces.any (fun q =>
    q.outstanding && (write || q.direction == .write) && rangesOverlap q.lba q.count lba count))

/-- A gather read of earlier arrival number overlaps these blocks (R31, R32). -/
def ArrayPort.heldByGather (p : ArrayPort) (chunk : Nat) (arrival : BitVec 32) (lba count : Nat) : Bool :=
  p.gathers.any (fun g => arrivalEarlier g.arrival arrival && rangesOverlap (g.chunk * chunk) chunk lba count)

/-- A waiting piece may leave WAITING (R31). -/
def Bridge.pieceFree (b : Bridge) (arrival : BitVec 32) (p : Piece) : Bool :=
  p.state == .waiting && !b.port.heldByPiece arrival p.lba p.count (p.direction == .write)
    && !(p.direction == .write && b.port.heldByGather b.engine.chunk arrival p.lba p.count)

/-- A gather read that is held may be released (R32). -/
def Bridge.gatherFree (b : Bridge) (g : Gather) : Bool :=
  !g.released && !b.port.heldByPiece g.arrival (g.chunk * b.engine.chunk) b.engine.chunk false

/-- The earliest waiting piece that may be dispatched, with its arrival number (R33). -/
def Bridge.nextPiece (b : Bridge) : Option (BitVec 32 × Nat × Nat) :=
  b.port.table.findSome? (fun r =>
    (r.pieces.find? (b.pieceFree r.arrival)).map (fun p => (r.arrival, r.tag, p.index)))

/-- The earliest held gather read that may be released (R33). -/
def Bridge.nextGather (b : Bridge) : Option Gather := b.port.gathers.find? b.gatherFree

/-! Classification (R45, R46). -/

/-- The class of a piece with target row `t` while the volume is EXPANDING: the table of R46. -/
def Engine.classify (e : Engine) (direction : Direction) (t : Nat) : PieceClass :=
  if t < e.doneMark then .target
  else match e.slotHolding t with
    | none => .current
    | some i =>
        match (e.slot i).state, direction with
        | .free, _ => .current
        | .gather, .read => .current
        | .gather, .write => .through
        | .full, .read => .slotRead
        | .full, .write => .through
        | .staging, .read => .slotRead
        | .staging, .write => .park
        | .writing, .read => .slotRead
        | .writing, .write => .park

/-- A piece is entered in the current-layout set with its current row (R63). -/
def Bridge.enterCurrent (b : Bridge) (tag index row : Nat) : Bridge :=
  let entry : RowPiece := { tag := tag, index := index, row := row }
  { b with router := { b.router with inCurrent := b.router.inCurrent ++ [entry] } }

/-- A piece is served in a layout as CURRENT or TARGET (R51, R52). A CURRENT piece enters the current-layout set
(R63). A read of an ONLINE member is one DREAD; every other piece goes to the parity unit. -/
def Bridge.serveInLayout (b : Bridge) (tag : Nat) (p : Piece) (cls : PieceClass) (place : Place) : Bridge :=
  let b := b.onPiece tag p.index (fun q => { q with cls := some cls, place := some place })
  let b := if cls == .current then b.enterCurrent tag p.index place.row else b
  match p.direction with
  | .write => b.push [.handOver (.piece tag p.index) true]
  | .read =>
      let member := b.columnMember place.layout place.column
      if b.memberOnline member then
        (b.onPiece tag p.index (fun q => { q with state := .issued })).issueStep .foreground
          [{ kind := .dread, member := member, block := b.placeBlock place, count := place.count, payload := []
             issuer := .plainRead tag p.index }]
      else b.push [.handOver (.piece tag p.index) false]

/-- The blocks of a slot's data position (R73). -/
def Slot.chunkAt (s : Slot) (position : Nat) : List Block := s.data.getD position []

/-- A read piece of class SLOT_READ is served from slot memory (R53). -/
def Bridge.serveSlotRead (b : Bridge) (tag : Nat) (p : Piece) (i : SlotId) (position offset : Nat) : Bridge :=
  let blocks := (((b.engine.slot i).chunkAt position).drop offset).take p.count
  (b.onPiece tag p.index (fun q => { q with cls := some .slotRead })).push [.finishPiece tag p.index .good blocks]

/-- A write piece of class THROUGH (R54): its data goes into the slot, the slot's pending count rises, the piece enters
the current-layout set, and it goes to the parity unit as a write in the current layout. -/
def Bridge.serveThrough (b : Bridge) (tag : Nat) (p : Piece) (i : SlotId) (position : Nat) (place : Place) : Bridge :=
  let data := b.pieceData tag p.index
  let b := b.onSlot i (fun s =>
    { s with
      data := s.data.modify position (fun c => spliceAt c place.offset data)
      pending := s.pending + 1 })
  let b := b.onPiece tag p.index (fun q => { q with cls := some .through, place := some place, slot := some i })
  (b.enterCurrent tag p.index place.row).push [.handOver (.piece tag p.index) true]

/-- A write piece of class PARK (R58): the hold queue while it has room, else the park-wait list. While the engine is
FAILED the piece ends LOST (R61). -/
def Bridge.servePark (b : Bridge) (tag : Nat) (p : Piece) (t : Nat) : Bridge :=
  if b.engine.state == .failed then b.push [.finishPiece tag p.index .lost []]
  else
    let entry : RowPiece := { tag := tag, index := p.index, row := t }
    if b.router.hold.length < Config.holdEntries then
      { b.onPiece tag p.index (fun q => { q with cls := some .park, state := .parked }) with
        router := { b.router with hold := b.router.hold ++ [entry] } }
    else
      { b.onPiece tag p.index (fun q => { q with cls := some .park, state := .parkWait }) with
        router := { b.router with parkWait := b.router.parkWait ++ [entry] } }

/-- A piece leaves WAITING: the router resolves it in each layout, classifies it and hands it on (R44 to R46). A piece
whose target row carries the stage-loss mark ends LOST (R173). -/
def Bridge.dispatchPiece (b : Bridge) (tag index : Nat) : Bridge :=
  match b.piece? tag index, b.engine.current with
  | some p, some cur =>
      let offset := offsetOf cur.chunk p.lba
      let place := placeOf .current cur p.chunk offset p.count
      match b.engine.volume, b.engine.target with
      | .expanding, some tgt =>
          let place' := placeOf .target tgt p.chunk offset p.count
          let t := place'.row
          let position := positionOf tgt.columns p.chunk
          if b.engine.stageLoss == some t then b.push [.finishPiece tag index .lost []]
          else
            match b.engine.classify p.direction t, b.engine.slotHolding t with
            | .current, _ => b.serveInLayout tag p .current place
            | .target, _ => b.serveInLayout tag p .target place'
            | .slotRead, some i => b.serveSlotRead tag p i position offset
            | .through, some i => b.serveThrough tag p i position place
            | .park, _ => b.servePark tag p t
            | .slotRead, none => b
            | .through, none => b
      | _, _ => b.serveInLayout tag p .current place
  | _, _ => b

/-! Release and loss of parked pieces (R60, R61). -/

/-- The parked pieces in release order: the hold queue from its head, then the park-wait list (R60). -/
def Router.parked (r : Router) : List RowPiece := r.hold ++ r.parkWait

/-- The router with both collections of parked pieces empty. -/
def Router.unparked (r : Router) : Router := { r with hold := [], parkWait := [] }

/-- At the completion of a row's write-out every parked piece becomes TARGET and is handed to the parity unit, in release
order (R60). -/
def Bridge.releaseParked (b : Bridge) : Bridge :=
  match b.engine.target with
  | none => b
  | some tgt =>
      let released := b.router.parked
      released.foldl
        (fun b e =>
          match b.piece? e.tag e.index with
          | none => b
          | some p =>
              let place := placeOf .target tgt p.chunk (offsetOf tgt.chunk p.lba) p.count
              (b.onPiece e.tag e.index (fun q => { q with cls := some .target, place := some place })).push
                [.handOver (.piece e.tag e.index) true])
        { b with router := b.router.unparked }

/-- When the engine enters FAILED every parked piece ends LOST, in release order (R61). -/
def Bridge.loseParked (b : Bridge) : Bridge :=
  ({ b with router := b.router.unparked }).push
    (b.router.parked.map (fun (e : RowPiece) => Action.finishPiece e.tag e.index .lost []))

/-- A plain DREAD of a read piece has ended (R51): DGOOD ends the piece GOOD, and anything else hands it to the parity
unit in the same layout and row, which are those of its place. -/
def Bridge.plainReadEnded (b : Bridge) (tag index : Nat) (ending : Ending) : Bridge :=
  match ending with
  | .good blocks => b.push [.finishPiece tag index .good blocks]
  | .media | .failed => b.push [.handOver (.piece tag index) false]

end Sys2Proof.Machine
end

