-- ==== Sys2Proof/Machine/Engine.lean ====
section
/-! DEFINITION. The restripe engine: failure, gathers, write-outs, staging and checkpoints (chapters 4 and 5). -/

namespace Sys2Proof.Machine

open Sys2Proof

/-! The engine's failure and its holds (R88, R93, R94). -/

/-- A step of some work at the parity unit (R137). -/
def stepServes (w : Work) (step : List DriveCommand) : Bool :=
  step.any (fun c => match c.issuer with
    | .service x _ => x == w
    | _ => false)

/-- A step of the engine (R136). -/
def engineStep (step : List DriveCommand) : Bool := step.any (fun c => c.issuer.ofEngine)

/-- The engine's steps leave the step wait list unqueued: none of their commands has been issued (R94, R137). A gather
chunk whose step waited has no command outstanding then. -/
def Bridge.dropEngineSteps (b : Bridge) : Bridge :=
  let dropped := b.migrationWait.filter engineStep
  { b with
    migrationWait := b.migrationWait.filter (fun step => !engineStep step)
    parity := { b.parity with services := b.parity.services.map (fun s =>
      if dropped.any (stepServes s.work) then { s with outstanding := 0 } else s) } }

/-- The engine enters FAILED (R94): the alert cause is set, the hold request, the CANCEL in progress, the checkpoint and
the staging are discarded, the gather reads leave the overlap order, the engine's waiting steps are dropped and its lock
work withdrawn, and every parked piece ends LOST. The marks, the descriptors, the volume state and the slots stand. -/
def Bridge.failEngine (b : Bridge) : Bridge :=
  if b.engine.state == .failed then b
  else
    let b := b.onEngine (fun e =>
      { e with
        state := .failed, resume := none, hold := none, cancel := false, checkpoint := none, staging := none })
    let b := { b with port := { b.port with gathers := [] } }
    (b.dropEngineSteps.withdrawChunks.loseParked).raise causeFailed

/-- The engine is in COPY, FILL or RECOVER, where it takes a hold request (R88, R93). -/
def Engine.takesHold (e : Engine) : Bool := e.state == .copy || e.state == .fill || e.state == .recover

/-- A slot has writes of its write-out in flight (R81). -/
def Slot.writingOut (s : Slot) : Bool := s.state == .writing && 0 < s.writes

/-- A write-out is in flight (R93, R94; log entry 13). -/
def Engine.writeOutInFlight (e : Engine) : Bool := e.slotA.writingOut || e.slotB.writingOut

/-- A gather read is in flight: released and not yet ended (R93, R94; log entry 13). -/
def Bridge.gatherInFlight (b : Bridge) : Bool := b.port.gathers.any (fun g => g.released)

/-- A slot is in STAGING or WRITING (R88). -/
def Engine.slotLeaving (e : Engine) : Bool := e.slotA.leaving || e.slotB.leaving

/-- A hold request takes effect now (R88). -/
def Engine.holdsNow (e : Engine) : Bool :=
  e.hold.isSome && e.moving && !e.slotLeaving && e.checkpoint.isNone

/-- The engine enters HELD (R88): the resume phase is set, the hold request is cleared, and alert cause HELD is set when
its cause was MEMBER. -/
def Bridge.enterHeld (b : Bridge) : Bridge :=
  let cause := b.engine.hold
  let b := b.onEngine (fun e => { e with state := .held, resume := some e.phaseByMark, hold := none })
  if cause == some .member then b.raise causeHeld else b

/-! Slot allocation (R74, R75, R76). -/

/-- The data columns of the layout that the engine writes. -/
def Engine.writtenPositions (e : Engine) : Nat :=
  ((e.descriptor e.writtenLayout).map Descriptor.dataColumns).getD 0

/-- The phase of a row's slot: COPY while EXPANDING when the row is at most kc, else FILL (R74). -/
def Engine.rowPhase (e : Engine) (row : Nat) : Phase :=
  match e.lastCopyRow with
  | some kc => if row ≤ kc then .copy else .fill
  | none => .fill

/-- The number of gather reads of a copy row (R75). -/
def Engine.sources (e : Engine) (row : Nat) : Nat :=
  match e.current, e.target with
  | some c, some t => sourceChunks c t row
  | _, _ => 0

/-- A slot just allocated to a copy row (R74, R75, R76): it gathers, its zero positions present. -/
def Engine.copySlot (e : Engine) (row : Nat) : Slot :=
  let n := e.writtenPositions
  { state := .gather, row := some row, phase := .copy, gathers := e.sources row, pending := 0
    present := (List.range n).map (fun p => e.sources row ≤ p), data := List.replicate n (zeroBlocks e.chunk)
    parity := none, writes := 0 }

/-- A slot just allocated to a fill row (R74, R76): it is filled with zeros and FULL. -/
def Engine.fillSlot (e : Engine) (row : Nat) : Slot :=
  let n := e.writtenPositions
  { state := .full, row := some row, phase := .fill, gathers := 0, pending := 0, present := List.replicate n true
    data := List.replicate n (zeroBlocks e.chunk), parity := none, writes := 0 }

/-- The gather reads of a copy row, in ascending order of position, with the arrival numbers they take (R32, R75). -/
def Engine.gatherReads (e : Engine) (arrivals : BitVec 32) (i : SlotId) (row : Nat) : List Gather :=
  (List.range (e.sources row)).map (fun p =>
    { arrival := arrivals + BitVec.ofNat 32 p, chunk := row * e.writtenPositions + p, slot := i, position := p
      released := false })

/-- A FREE slot is allocated to a row (R74). -/
def Bridge.allocateRow (b : Bridge) (i : SlotId) (row : Nat) : Bridge :=
  match b.engine.rowPhase row with
  | .fill => b.onEngine (fun e => e.setSlot i (e.fillSlot row))
  | .copy =>
      let reads := b.engine.gatherReads b.port.arrivals i row
      let b := b.onEngine (fun e => e.setSlot i (e.copySlot row))
      { b with port := { b.port with
        gathers := b.port.gathers ++ reads, arrivals := b.port.arrivals + BitVec.ofNat 32 reads.length } }

/-- The slot taken by an allocation: slot A when both are FREE (R74). -/
def Engine.freeSlot (e : Engine) : Option SlotId :=
  if e.slotA.state == .free then some .a else if e.slotB.state == .free then some .b else none

/-- The row taken by an allocation: DM when no slot holds it, else DM + 1, below R and held by no slot (R74). -/
def Engine.rowToAllocate (e : Engine) : Option Nat :=
  if e.doneMark < e.rows && (e.slotHolding e.doneMark).isNone then some e.doneMark
  else if e.doneMark + 1 < e.rows && (e.slotHolding (e.doneMark + 1)).isNone then some (e.doneMark + 1)
  else none

/-- The allocation that is due, if one is (R74, R82): in COPY or FILL, with no CANCEL in progress and no hold
request. -/
def Engine.allocation (e : Engine) : Option (SlotId × Nat) :=
  if e.moving && !e.cancel && e.hold.isNone then
    match e.freeSlot, e.rowToAllocate with
    | some i, some row => some (i, row)
    | _, _ => none
  else none

/-! Gathers (R75, R77, R78). -/

/-- The gather read of an arrival number. -/
def Bridge.gather? (b : Bridge) (arrival : BitVec 32) : Option Gather :=
  b.port.gathers.find? (fun g => g.arrival == arrival)

/-- The place of a source chunk in the current layout (R7, R75). -/
def Engine.sourcePlace (e : Engine) (chunk : Nat) : Option Place :=
  e.current.map (fun d => placeOf .current d chunk 0 d.chunk)

/-- The place at which handed-over work is served: that of its piece, which a final checkpoint may have made one of the new
current layout (R50, R87), or the source of its gather chunk, none once the gather read has left the overlap order
(R94). -/
def Bridge.workPlace (b : Bridge) : Work → Option Place
  | .piece tag index => (b.piece? tag index).bind Piece.place
  | .chunk arrival => (b.gather? arrival).bind (fun g => b.engine.sourcePlace g.chunk)

/-- The array port releases a gather read (R32, R75): a BROKEN current layout fails the engine, an ONLINE source member
gets one DREAD, and otherwise the chunk goes to the parity unit. -/
def Bridge.releaseGather (b : Bridge) (g : Gather) : Bridge :=
  let b := { b with port := { b.port with
    gathers := b.port.gathers.map (fun (x : Gather) => if x.arrival == g.arrival then { x with released := true } else x) } }
  match b.engine.sourcePlace g.chunk with
  | none => b
  | some place =>
      let member := b.columnMember .current place.column
      if b.broken .current then b.failEngine
      else if b.memberOnline member then
        b.issueStep .migration
          [{ kind := .dread, member := member, block := b.placeBlock place, count := place.count, payload := []
             issuer := .gather g.arrival }]
      else b.push [.handOver (.chunk g.arrival) false]

/-- Data placed at a position of a gathering slot: the position is present and the gather count falls (R77). -/
def Slot.placed (s : Slot) (position : Nat) (blocks : List Block) : Slot :=
  { s with
    data := s.data.set position blocks, present := s.present.set position true, gathers := s.gathers - 1 }

/-- A slot in GATHER with every position present and no gather read outstanding enters FULL (R78). -/
def Slot.full (s : Slot) : Slot :=
  if s.state == .gather && s.gathers == 0 && s.present.all (fun p => p) then { s with state := .full } else s

/-- A gathered chunk is present (R77): its data is placed, its gather read leaves the overlap order, and the slot enters
FULL when it is complete. A chunk whose gather read has been dropped is discarded. -/
def Bridge.gatherPresent (b : Bridge) (arrival : BitVec 32) (blocks : List Block) : Bridge :=
  match b.gather? arrival with
  | none => b
  | some g =>
      let b := { b with port := { b.port with gathers := b.port.gathers.filter (fun x => x.arrival != arrival) } }
      b.onSlot g.slot (fun s => (s.placed g.position blocks).full)

/-- A gather DREAD has ended (R77): DGOOD places the chunk, and anything else hands it to the parity unit. -/
def Bridge.gatherEnded (b : Bridge) (arrival : BitVec 32) (ending : Ending) : Bridge :=
  match ending with
  | .good blocks => b.gatherPresent arrival blocks
  | .media | .failed => b.push [.handOver (.chunk arrival) false]

/-! Write-outs (R80, R81, R82). -/

/-- What a write-out writes to a column: the parity chunk on the row's parity column, else the data position of R8. -/
def Slot.columnData (s : Slot) (columns row column : Nat) : List Block :=
  if column == parityColumn columns row then s.parity.getD [] else s.chunkAt (positionOfColumn columns row column)

/-- The writes of the write-out of a row: one for each column whose member has not failed (R81). -/
def Bridge.writeOutStep (b : Bridge) (i : SlotId) (row : Nat) : List DriveCommand :=
  let layout := b.engine.writtenLayout
  let columns := b.layoutColumns layout
  let live := (List.range columns).filter (fun c => !b.memberFailed (b.columnMember layout c))
  live.map (fun c =>
    { kind := .dwrite, member := b.columnMember layout c, block := memberBlock b.engine.chunk row 0
      count := b.engine.chunk, payload := (b.engine.slot i).columnData columns row c, issuer := .writeOut i })

/-- The engine issues the write-out of a row, or enters FAILED when the layout it writes is BROKEN (R81). -/
def Bridge.issueWriteOut (b : Bridge) (i : SlotId) (row : Nat) : Bridge :=
  if b.broken b.engine.writtenLayout then b.failEngine
  else
    let step := b.writeOutStep i row
    (b.onSlot i (fun s => { s with writes := step.length })).issueStep .migration step

/-- The engine asks for the write-out gate of a row (R64): with the gate open the write-out is issued, else the row is
recorded. -/
def Bridge.askGate (b : Bridge) (i : SlotId) (row : Nat) : Bridge :=
  if b.router.inCurrent.any (fun e => e.row == row) then { b with router := { b.router with gate := some row } }
  else b.issueWriteOut i row

/-- A slot with the row's parity built in it, in WRITING (R80). -/
def Slot.startWriting (s : Slot) (chunk : Nat) : Slot :=
  { s with state := .writing, parity := some (xorAll chunk s.data), writes := 0 }

/-- A slot enters WRITING (R80). -/
def Bridge.enterWriting (b : Bridge) (i : SlotId) (row : Nat) : Bridge :=
  (b.onSlot i (fun s => s.startWriting b.engine.chunk)).askGate i row

/-- The router reports the write-out gate of a row open (R64, R80). A FAILED engine issues nothing (R94). -/
def Bridge.gateOpened (b : Bridge) (row : Nat) : Bridge :=
  if b.engine.state == .failed then b
  else
    match b.engine.slotHolding row with
    | none => b
    | some i => if (b.engine.slot i).state == .writing then b.issueWriteOut i row else b

/-- A write-out is complete (R82, steps 1 to 3): DM advances, the slot becomes FREE, the parked pieces are released, and
the later steps follow. -/
def Bridge.completeWriteOut (b : Bridge) (i : SlotId) (row : Nat) : Bridge :=
  let b := b.onEngine (fun e => { e.setSlot i Slot.reset with doneMark := row + 1 })
  b.releaseParked.push [.afterWriteOut row]

/-- A write of a write-out has ended (R82). With the engine FAILED its outcome is discarded (R94). -/
def Bridge.writeOutEnded (b : Bridge) (i : SlotId) : Bridge :=
  let s := b.engine.slot i
  if b.engine.state == .failed || s.state != .writing || s.writes == 0 then b
  else if s.writes == 1 then b.completeWriteOut i (s.row.getD 0)
  else b.onSlot i (fun s => { s with writes := s.writes - 1 })

/-! Checkpoints (R96 to R103). -/

/-- The layout whose members a checkpoint writes to: the current one for CANCEL, else the one the engine writes (R99). -/
def Engine.checkpointLayout (e : Engine) : CheckpointKind → Layout
  | .cancel => .current
  | _ => e.writtenLayout

/-- The CM that a checkpoint of a kind declares (R99). -/
def Engine.declaredMark (e : Engine) : CheckpointKind → Nat
  | .openingCreate | .openingStart | .final | .cancel => 0
  | .stage | .clearing | .forced | .periodic => e.doneMark

/-- The volume state that a checkpoint of a kind declares (R99). -/
def Engine.declaredState (e : Engine) : CheckpointKind → VolumeState
  | .openingCreate => .initializing
  | .openingStart | .stage | .clearing | .forced => .expanding
  | .periodic => if e.target.isSome then .expanding else .initializing
  | .final | .cancel => .stable

/-- No descriptor: what a record's descriptor field holds in a state that has none. -/
def Descriptor.blank : Descriptor := { chunk := 1, rows := 0, members := [] }

/-- The current descriptor that a checkpoint of a kind declares: a final checkpoint of an expansion declares the target
as the new current one (R99). -/
def Engine.declaredCurrent (e : Engine) (kind : CheckpointKind) : Descriptor :=
  match kind, e.target with
  | .final, some t => t
  | _, _ => e.current.getD Descriptor.blank

/-- The record that a checkpoint of a kind writes under a generation (R96, R99). -/
def Engine.checkpointRecord (e : Engine) (kind : CheckpointKind) (generation : BitVec 64) (stage : Option (Nat × Nat)) :
    Record :=
  { generation := generation, volume := e.declaredState kind, current := e.declaredCurrent kind
    target := if e.declaredState kind == .expanding then e.target else none
    mark := e.declaredMark kind, stage := stage }

/-- The member block at which a record of a generation is written: block 0 when even, block 8 when odd (R98). -/
def recordPosition (generation : BitVec 64) : Nat := if generation.getLsbD 0 then 8 else 0

/-- The members that enter the volume with a checkpoint (R98): all at CREATE, the added ones at START. -/
def Engine.entering (e : Engine) (kind : CheckpointKind) (members : List Nat) : List Nat :=
  match kind with
  | .openingCreate => members
  | .openingStart => members.filter (fun m => !((e.current.map Descriptor.members).getD []).contains m)
  | _ => []

/-- One block written by a checkpoint to a member (R99). -/
def checkpointWrite (member block : Nat) (content : Block) : DriveCommand :=
  { kind := .dwrite, member := member, block := block, count := 1, payload := [content], issuer := .checkpoint }

/-- The step of a checkpoint: the record to every member of the set, and an all-zero block at the other position to every
entering member (R98, R99). -/
def checkpointStep (members entering : List Nat) (generation : BitVec 64) (record : Block) : List DriveCommand :=
  let position := recordPosition generation
  members.map (fun m => checkpointWrite m position record) ++ entering.map (fun m => checkpointWrite m (8 - position) 0)

/-- The generation of the next checkpoint: the counter plus one (R99). What follows 2^64 − 1 the spec does not say, and the
model leaves it a free value (log entry 25). -/
def nextGeneration (generation : BitVec 64) : BitVec 64 :=
  if generation == BitVec.allOnes 64 then Config.generationAfter generation else generation + 1

/-- The engine starts a checkpoint (R99). The generation counter takes the next generation (past 2^64 − 1 a free value, log
entry 25). With fewer members than the threshold no write is issued and the engine enters FAILED. -/
def Bridge.startCheckpoint (b : Bridge) (kind : CheckpointKind) (stage : Option (Nat × Nat)) : Bridge :=
  let generation := nextGeneration b.engine.generation
  let layout := b.engine.checkpointLayout kind
  let members := b.onlineMembers layout
  let threshold := b.layoutColumns layout - 1
  let entering := b.engine.entering kind members
  let record := (b.engine.checkpointRecord kind generation stage).block
  let b := b.onEngine (fun e => { e with generation := generation })
  if members.length < threshold then b.failEngine
  else
    let parts : List CheckpointPart := members.map (fun m =>
      { member := m, outstanding := if entering.contains m then 2 else 1, good := true })
    let c : Checkpoint :=
      { kind := kind, generation := generation, mark := b.engine.declaredMark kind, stage := stage
        threshold := threshold, parts := parts }
    let b := b.onEngine (fun e => { e with checkpoint := some c })
    b.issueStep .migration (checkpointStep members entering generation record)

/-- The checkpoint that is due when the write-out of a row has completed: the first of the list of R102. -/
def Engine.dueCheckpoint (cfg : Settings) (e : Engine) (row : Nat) : Option CheckpointKind :=
  if e.doneMark == e.rows then some .final
  else if e.volume == .expanding && e.critical row then some .clearing
  else if e.checkMark + cfg.cpInterval ≤ e.doneMark then some .periodic
  else none

/-- The later steps of a write-out completion (R82, steps 4 and 5): the engine state follows DM (R83, R84), and the
checkpoint that is due is started. -/
def Bridge.afterWriteOut (cfg : Settings) (b : Bridge) (row : Nat) : Bridge :=
  if b.engine.state == .failed then b
  else
    let b := b.onEngine (fun e => { e with state := e.phaseByMark.engineState })
    match b.engine.dueCheckpoint cfg row with
    | some kind => b.startCheckpoint kind none
    | none => b

/-! Staging (R106 to R109). -/

/-- The added columns, in ascending order (R106). -/
def Engine.addedColumns (e : Engine) : List Nat :=
  match e.current, e.target with
  | some c, some t => (List.range t.columns).filter (fun i => c.columns ≤ i)
  | _, _ => []

/-- The stage column: the lowest added column whose member is ONLINE (R106). -/
def Bridge.stageColumn (b : Bridge) : Option Nat :=
  b.engine.addedColumns.find? (fun c => b.memberOnline (b.columnMember .target c))

/-- The stage writes of a slot to the member of a stage column (R107). -/
def Bridge.stageWrites (b : Bridge) (s : Slot) (column : Nat) : List DriveCommand :=
  (List.range b.engine.writtenPositions).map (fun p =>
    { kind := .dwrite, member := b.columnMember .target column, block := Config.stagingBlock + p * b.engine.chunk
      count := b.engine.chunk, payload := s.chunkAt p, issuer := .stageWrite })

/-- The slot that holds row DM. -/
def Engine.markSlot (e : Engine) : Option SlotId := e.slotHolding e.doneMark

/-- The engine chooses a stage member and issues the stage writes of row DM, or enters FAILED when no added column is
ONLINE (R106). -/
def Bridge.stageRow (b : Bridge) : Bridge :=
  match b.stageColumn, b.engine.markSlot with
  | some column, some i =>
      let step := b.stageWrites (b.engine.slot i) column
      (b.onEngine (fun e =>
        { e with staging := some { column := column, outstanding := step.length, failed := false } })).issueStep
          .migration step
  | _, _ => b.failEngine

/-- The slot of a critical row enters STAGING (R106). -/
def Bridge.enterStaging (b : Bridge) (i : SlotId) : Bridge :=
  (b.onSlot i (fun s => { s with state := .staging })).stageRow

/-- The last stage write has ended (R108): the stage checkpoint is started, or the staging is redone on another
member (R109). A staging that the engine's failure has ended takes no step (R94). -/
def Bridge.stageWritten (b : Bridge) : Bridge :=
  match b.engine.staging with
  | none => b
  | some st =>
      if !st.failed && b.memberOnline (b.columnMember .target st.column) then
        b.startCheckpoint .stage (some (b.engine.doneMark, st.column))
      else b.stageRow

/-- A stage write has ended (R108, R109). With the last one the engine's next step follows. -/
def Bridge.stageWriteEnded (b : Bridge) (ending : Ending) : Bridge :=
  match b.engine.staging with
  | none => b
  | some st =>
      let st := { st with outstanding := st.outstanding - 1, failed := st.failed || !ending.isGood }
      let b := b.onEngine (fun e => { e with staging := some st })
      if st.outstanding == 0 then b.push [.stageWritten] else b

/-- The stage checkpoint has succeeded (R108, R109): the slot enters WRITING when the stage member is ONLINE, and the
staging is redone otherwise. -/
def Bridge.stageDurable (b : Bridge) : Bridge :=
  match b.engine.staging, b.engine.markSlot with
  | some st, some i =>
      if b.memberOnline (b.columnMember .target st.column) then
        (b.onEngine (fun e => { e with staging := none })).enterWriting i b.engine.doneMark
      else b.stageRow
  | _, _ => b

/-! The end of a checkpoint (R87, R91, R100, R145). -/

/-- The engine of a volume that has become STABLE: IDLE, the marks 0, no hold request and no CANCEL (R69, R87, R91). R110
has the engine go HELD after the final checkpoint of a staged row R − 1. By R100 the changes of R87, which discard any hold
request, come before a pending one takes effect, and by R69 the engine of a STABLE volume is IDLE (log entry 23). -/
def Engine.becomeStable (e : Engine) : Engine :=
  { e with
    volume := .stable, state := .idle, resume := none, hold := none, cancel := false, target := none, doneMark := 0
    checkMark := 0, staging := none }

/-- A TARGET piece that is still in flight when the final checkpoint of its expansion succeeds (R87). -/
def Piece.targetInFlight (p : Piece) : Bool := p.outstanding && p.cls == some .target

/-- A place in the target layout is the same place in the new current layout (R50, R87). -/
def Place.afterFinal (p : Place) : Place := { p with layout := p.layout.afterFinal }

/-- The entries that the TARGET pieces in flight take in the current-layout set (R87). -/
def ArrayPort.targetEntries (p : ArrayPort) : List RowPiece :=
  p.table.flatMap (fun r => (r.pieces.filter Piece.targetInFlight).map (fun q =>
    { tag := r.tag, index := q.index, row := (q.place.map Place.row).getD 0 }))

/-- The request table after a final checkpoint of an expansion: the TARGET pieces in flight stand in the new current
layout. -/
def ArrayPort.afterFinal (p : ArrayPort) : ArrayPort :=
  { p with table := p.table.map (fun r =>
      { r with pieces := r.pieces.map (fun q =>
          if q.targetInFlight then { q with place := q.place.map Place.afterFinal } else q) }) }

/-- A member's columns after the final checkpoint of an expansion (R145). -/
def Member.afterFinal (m : Member) : Member :=
  match m.targetColumn with
  | some c => { m with currentColumn := some c, targetColumn := none }
  | none => m

/-- The final checkpoint of an expansion has succeeded (R87). -/
def Bridge.expansionDone (b : Bridge) : Bridge :=
  let b := { b with
    router := { b.router with inCurrent := b.router.inCurrent ++ b.port.targetEntries }
    port := b.port.afterFinal
    parity := b.parity.targetBecomesCurrent
    members := b.members.map Member.afterFinal }
  (b.onEngine (fun e => { e.becomeStable with current := e.target })).refreshHealth.raise causeDone

/-- The final checkpoint of an initialization has succeeded (R87). -/
def Bridge.initializationDone (b : Bridge) : Bridge := (b.onEngine Engine.becomeStable).refreshHealth.raise causeDone

/-- A member after the cancel checkpoint (R145): no target column, and an ONLINE member without a current column is
PRESENT again. -/
def Member.afterCancel (m : Member) : Member :=
  { m with
    targetColumn := none
    state := if m.state == .online && m.targetColumn.isSome && m.currentColumn.isNone then .present else m.state }

/-- The cancel checkpoint has succeeded (R91, R145). -/
def Bridge.cancelDone (b : Bridge) : Bridge :=
  ({ b with members := b.members.map Member.afterCancel }.onEngine Engine.becomeStable).refreshHealth

/-- What a successful checkpoint changes beside CM and the durable record, by its kind (R100). The step that follows a stage
checkpoint is one of its own in the same event. -/
def Bridge.checkpointSucceeded (b : Bridge) (kind : CheckpointKind) : Bridge :=
  match kind with
  | .final => if b.engine.target.isSome then b.expansionDone else b.initializationDone
  | .cancel => b.cancelDone
  | .stage => b.push [.stageDurable]
  | .openingCreate | .openingStart | .clearing | .forced | .periodic => b

/-- A checkpoint has ended (R100): it succeeds when at least its threshold of members ended DGOOD, and the engine enters
FAILED otherwise. -/
def Bridge.checkpointEnded (b : Bridge) (c : Checkpoint) : Bridge :=
  if c.threshold ≤ (c.parts.filter (fun p => p.good)).length then
    (b.onEngine (fun e =>
      { e with
        checkpoint := none, checkMark := c.mark
        durable := some { generation := c.generation, mark := c.mark, stage := c.stage } })).checkpointSucceeded c.kind
  else b.failEngine

/-- A member's part of a checkpoint after one of its writes has ended (R98). -/
def CheckpointPart.ended (p : CheckpointPart) (member : Nat) (good : Bool) : CheckpointPart :=
  if p.member == member then { p with outstanding := p.outstanding - 1, good := p.good && good } else p

/-- A write of a checkpoint has ended (R100). -/
def Bridge.checkpointWriteEnded (b : Bridge) (member : Nat) (ending : Ending) : Bridge :=
  match b.engine.checkpoint with
  | none => b
  | some c =>
      let c := { c with parts := c.parts.map (fun p => p.ended member ending.isGood) }
      let b := b.onEngine (fun e => { e with checkpoint := some c })
      if c.parts.all (fun p => p.outstanding == 0) then b.checkpointEnded c else b

/-! Leaving FULL (R79, R104). -/

/-- The slot that may leave FULL now, with its row: that of row DM, as R79 gives. -/
def Engine.leaving (e : Engine) : Option (SlotId × Nat) :=
  if ((e.moving && e.hold.isNone) || e.state == .recover) && !e.cancel && e.checkpoint.isNone then
    match e.markSlot with
    | some i => if (e.slot i).state == .full && (e.slot i).pending == 0 then some (i, e.doneMark) else none
    | none => none
  else none

/-- The guard of a row is met (R20, R104). -/
def Engine.guardMet (e : Engine) (row : Nat) : Bool :=
  match e.current, e.target with
  | some c, some t => guardThreshold c.columns t.columns row ≤ e.checkMark
  | _, _ => true

/-- The slot of row DM leaves FULL (R79, R104): into STAGING when the row is critical, into WRITING when its guard is
met or the volume is INITIALIZING, and otherwise a forced checkpoint is started. -/
def Bridge.leaveFull (b : Bridge) (i : SlotId) (row : Nat) : Bridge :=
  if b.engine.critical row then b.enterStaging i
  else if b.engine.guardMet row then b.enterWriting i row
  else b.startCheckpoint .forced none

/-- The engine's next step of the row cycle, none when it is at rest (R74, R79, R82, R88). -/
def Bridge.engineAdvance (b : Bridge) : Option Bridge :=
  if b.engine.holdsNow then some b.enterHeld
  else
    match b.engine.allocation with
    | some (i, row) => some (b.allocateRow i row)
    | none =>
        match b.engine.leaving with
        | some (i, row) => some (b.leaveFull i row)
        | none => none

/-! PAUSE, RESUME and CANCEL (R88, R90, R91). -/

/-- A needed layout is BROKEN (R90). -/
def Bridge.neededBroken (b : Bridge) : Bool := b.engine.neededLayouts.any b.broken

/-- PAUSE: its result and what it sets (R88). -/
def Bridge.pause (b : Bridge) : CommandResult × Bridge :=
  if b.engine.takesHold then
    (.ok, b.onEngine (fun e => { e with hold := some (e.hold.getD .command) }))
  else if b.engine.state == .held then (.ok, b)
  else (.refusedState, b)

/-- RESUME: its result and what it sets (R90). -/
def Bridge.resume (b : Bridge) : CommandResult × Bridge :=
  if b.neededBroken then (.refusedState, b)
  else if b.engine.state == .held then
    (.ok, b.onEngine (fun e => { e with state := e.phaseByMark.engineState, resume := none }))
  else if b.engine.takesHold && b.engine.hold.isSome then (.ok, b.onEngine (fun e => { e with hold := none }))
  else (.refusedState, b)

/-- CANCEL is accepted (R91). -/
def Engine.cancelAllowed (e : Engine) : Bool :=
  e.volume == .expanding && e.doneMark == 0 && (e.state == .copy || e.state == .held) && !e.slotLeaving
    && e.checkpoint.isNone && (e.durable.bind Durable.stage).isNone

/-- The pieces of the table with their slot marks taken away: the slots have been dropped (R57, R91). -/
def ArrayPort.clearSlotMarks (p : ArrayPort) : ArrayPort :=
  { p with
    gathers := []
    table := p.table.map (fun r => { r with pieces := r.pieces.map (fun q => { q with slot := none }) }) }

/-- CANCEL: its result and what it does (R91, R118). -/
def Bridge.cancel (b : Bridge) : CommandResult × Bridge :=
  if b.engine.cancelAllowed then
    let b := b.onEngine (fun e => { e with slotA := Slot.reset, slotB := Slot.reset, cancel := true })
    let b := { b with port := b.port.clearSlotMarks }
    (.ok, b.withdrawChunks.startCheckpoint .cancel none)
  else (.refusedState, b)

end Sys2Proof.Machine
end

