-- ==== Sys2Proof/Machine/Discovery.lean ====
section
/-! DEFINITION. Discovery and recovery (chapter 9): probes and record reads, the choice of the record, member roles, the
engine's values, and the reading of a stage copy. -/

namespace Sys2Proof.Machine

open Sys2Proof

/-! Probes and record reads (R164, R165). -/

/-- What discovery holds of a member. -/
def Discovery.member (d : Discovery) (m : Nat) : DiscoveryMember := d.members.getD m DiscoveryMember.reset

/-- Discovery with what it holds of a member changed. -/
def Discovery.onMember (d : Discovery) (m : Nat) (f : DiscoveryMember → DiscoveryMember) : Discovery :=
  { d with members := d.members.modify m f }

/-- The bridge with its discovery changed, while discovery runs. -/
def Bridge.onDiscovery (b : Bridge) (f : Discovery → Discovery) : Bridge := { b with discovery := b.discovery.map f }

/-- The record read of a position (block 8 when `odd`). -/
def DiscoveryMember.read (d : DiscoveryMember) (odd : Bool) : RecordRead := if odd then d.block8 else d.block0

/-- A member's discovery with the record read of a position set. -/
def DiscoveryMember.setRead (d : DiscoveryMember) (odd : Bool) (r : RecordRead) : DiscoveryMember :=
  if odd then { d with block8 := r } else { d with block0 := r }

/-- A record read has ended. -/
def RecordRead.over : RecordRead → Bool
  | .notIssued | .pending => false
  | .record _ | .unreadable | .ended => true

/-- A member's probe and record reads have ended (R167). -/
def DiscoveryMember.over (d : DiscoveryMember) : Bool :=
  match d.probe with
  | .pending => false
  | .answered _ | .absent => d.block0.over && d.block8.over

/-- A member has answered its discovery probe and is not absent (R164, R165). -/
def ProbeState.hasAnswered : ProbeState → Bool
  | .answered _ => true
  | .pending | .absent => false

/-- An answered member. -/
def Discovery.answered (d : Discovery) (m : Nat) : Bool := (d.member m).probe.hasAnswered

/-- The choice event comes when the last probe and the last record read have ended (R167). -/
def Bridge.chooseWhenOver (b : Bridge) : Bridge :=
  match b.discovery with
  | none => b
  | some d => if d.members.all DiscoveryMember.over then b.push [.choose] else b

/-- The record reads of an answered member: one step of two DREADs, of block 0 and of block 8 (R165). -/
def recordReads (member : Nat) : List DriveCommand :=
  [{ kind := .dread, member := member, block := 0, count := 1, payload := [], issuer := .recordRead false },
   { kind := .dread, member := member, block := 8, count := 1, payload := [], issuer := .recordRead true }]

/-- The entry of a member that a probe has found (R150, R164). -/
def Member.found (capacity : Nat) : Member := { Member.reset with state := .present, capacity := capacity }

/-- A discovery probe has ended, with a capacity or none (R164). -/
def Bridge.discoveryProbeEnded (b : Bridge) (m : Nat) (capacity : Option Nat) : Bridge :=
  if b.discovery.isNone then b
  else
    match capacity with
    | none =>
        ((b.onMember m (fun _ => Member.reset)).onDiscovery (fun d =>
          d.onMember m (fun _ => { probe := .absent, block0 := .ended, block8 := .ended }))).chooseWhenOver
    | some c =>
        let b := b.onMember m (fun _ => Member.found c)
        if Config.firstDataBlock ≤ c then
          (b.onDiscovery (fun d =>
            d.onMember m (fun _ => { probe := .answered c, block0 := .pending, block8 := .pending }))).issueStep
              .migration (recordReads m)
        else
          (b.onDiscovery (fun d =>
            d.onMember m (fun _ => { probe := .answered c, block0 := .ended, block8 := .ended }))).chooseWhenOver

/-- A valid record read from a member's position enters the candidate list (R166). -/
def enterCandidate (block : Block) (copy : Nat × Bool) : List Candidate → List Candidate
  | [] => [{ block := block, copies := [copy] }]
  | c :: cs =>
      if c.block == block then { c with copies := c.copies ++ [copy] } :: cs else c :: enterCandidate block copy cs

/-- A member's records leave the candidate list (R165). -/
def dropCopies (m : Nat) (candidates : List Candidate) : List Candidate :=
  (candidates.map (fun c => { c with copies := c.copies.filter (fun x => x.1 != m) })).filter
    (fun c => !c.copies.isEmpty)

/-- The generation of the valid record that a record read gave. -/
def RecordRead.generation? : RecordRead → Option (BitVec 64)
  | .record b => (readRecord b).map Record.generation
  | .notIssued | .pending | .unreadable | .ended => none

/-- The higher of two generations that may be absent. -/
def higherGeneration : Option (BitVec 64) → Option (BitVec 64) → Option (BitVec 64)
  | some a, some b => if a.toNat < b.toNat then some b else some a
  | some a, none => some a
  | none, b => b

/-- How a record read of discovery ends (R165): with a block, DMEDIA, or with no answer of use. -/
inductive RecordOutcome where
  | block (b : Block)
  | media
  | gone
  deriving DecidableEq, Repr

/-- A record read has ended; the member's best generation is set once both have (R165). -/
def Bridge.afterRecordRead (b : Bridge) (m : Nat) : Bridge :=
  match b.discovery with
  | none => b
  | some d =>
      let dm := d.member m
      let b := if dm.over && dm.probe.hasAnswered then
          b.onMember m (fun e => { e with best := higherGeneration dm.block0.generation? dm.block8.generation? })
        else b
      b.chooseWhenOver

/-- A record read of discovery has ended (R165). The outcome of a member that is absent already is discarded. -/
def Bridge.recordReadEnded (b : Bridge) (m : Nat) (odd : Bool) (outcome : RecordOutcome) : Bridge :=
  match b.discovery with
  | none => b
  | some d =>
      if !d.answered m then (b.onDiscovery (fun d => d.onMember m (fun x => x.setRead odd .ended))).afterRecordRead m
      else
        match outcome with
        | .block block =>
            let d := d.onMember m (fun x => x.setRead odd (.record block))
            let d := if (readRecord block).isSome then
                { d with candidates := enterCandidate block (m, odd) d.candidates } else d
            ({ b with discovery := some d }).afterRecordRead m
        | .media => (b.onDiscovery (fun d => d.onMember m (fun x => x.setRead odd .unreadable))).afterRecordRead m
        | .gone =>
            ((b.onMember m (fun _ => Member.reset)).onDiscovery (fun d =>
              { d.onMember m (fun x => { x.setRead odd .ended with probe := .absent }) with
                candidates := dropCopies m d.candidates })).afterRecordRead m

/-! The choice (R166, R167). -/

/-- The members of some copies, each once. -/
def distinctMembers : List (Nat × Bool) → List Nat
  | [] => []
  | x :: xs => if (distinctMembers xs).contains x.1 then distinctMembers xs else x.1 :: distinctMembers xs

/-- The holders of a candidate (R166). -/
def Candidate.holders (c : Candidate) : List Nat := distinctMembers c.copies

/-- The order of a copy by member number, block 0 before block 8 (R167). -/
def copyRank (copy : Nat × Bool) : Nat := 2 * copy.1 + (if copy.2 then 1 else 0)

/-- The rank of a candidate's first copy: the lowest member, block 0 first (R167). -/
def Candidate.rank (c : Candidate) : Nat := smallest (c.copies.map copyRank)

/-- The generation of a candidate. -/
def Candidate.generation (c : Candidate) : Nat := ((readRecord c.block).map (fun r => r.generation.toNat)).getD 0

/-- The dissenting columns of a candidate: columns that have answered and do not hold it (R166). -/
def Discovery.dissenting (d : Discovery) (c : Candidate) : List Nat :=
  (((readRecord c.block).map Record.columns).getD []).filter (fun m => d.answered m && !c.holders.contains m)

/-- A candidate stands when at most one of its columns dissents (R166). -/
def Discovery.stands (d : Discovery) (c : Candidate) : Bool := (d.dissenting c).length ≤ 1

/-- Candidate `x` is chosen before `y`: the higher generation, then more holders, then the lower first copy (R167). -/
def Candidate.before (x y : Candidate) : Bool :=
  if x.generation != y.generation then y.generation < x.generation
  else if x.holders.length != y.holders.length then y.holders.length < x.holders.length
  else x.rank < y.rank

/-- The first of some candidates in the order of choice. -/
def bestCandidate : List Candidate → Option Candidate
  | [] => none
  | c :: cs =>
      match bestCandidate cs with
      | none => some c
      | some d => if c.before d then some c else some d

/-- The chosen candidate (R167). -/
def Discovery.choice (d : Discovery) : Option Candidate := bestCandidate (d.candidates.filter d.stands)

/-! Member roles (R168). -/

/-- The column of a member in a list. -/
def columnOf (members : List Nat) (m : Nat) : Option Nat := if members.contains m then some (members.idxOf m) else none

/-- A member's entry from the chosen record (R168). -/
def Discovery.role (d : Discovery) (r : Record) (holders : List Nat) (m : Nat) (before : Member) : Member :=
  let current := columnOf r.current.members m
  let target := r.target.bind (fun t => columnOf t.members m)
  let state : MemberState :=
    if current.isSome || target.isSome then
      if !d.answered m then .failed
      else if holders.contains m && Config.firstDataBlock + r.current.rows * r.current.chunk ≤ before.capacity then .online
      else .stale
    else if d.answered m then .present
    else .empty
  { state := state, capacity := if d.answered m then before.capacity else 0, currentColumn := current
    targetColumn := target, media := 0, best := before.best }

/-- The member table set from the chosen record (R168). -/
def Discovery.roles (d : Discovery) (r : Record) (holders : List Nat) (members : List Member) : List Member :=
  members.mapIdx (fun m before => d.role r holders m before)

/-! Setting up the engine (R169, R170) and resuming (R171 to R175). -/

/-- The engine's values from the chosen record (R169). The volume state is set when discovery ends, and until then the
descriptors do not count as present (R2, `Engine.presentDescriptor`; log entry 22). -/
def Engine.fromRecord (e : Engine) (r : Record) : Engine :=
  { e with
    current := some r.current, target := r.target, doneMark := r.mark, checkMark := r.mark, generation := r.generation
    durable := some { generation := r.generation, mark := r.mark, stage := r.stage }
    state := match r.volume with
      | .initializing => .fill
      | .expanding => .recover
      | .discovering | .unformed | .stable => .idle }

/-- Discovery ends, and the volume takes its state (R163, R169). -/
def Bridge.endDiscovery (b : Bridge) (volume : VolumeState) : Bridge :=
  { b.onEngine (fun e => { e with volume := volume }) with discovery := none }

/-- Slot A takes the staged row to be read back (R172). -/
def Engine.stageSlot (e : Engine) (row : Nat) : Slot :=
  let n := e.writtenPositions
  { state := .gather, row := some row, phase := .copy, gathers := n, pending := 0, present := List.replicate n false
    data := List.replicate n (zeroBlocks e.chunk), parity := none, writes := 0 }

/-- The reads of a stage copy (R172). -/
def Engine.stageReads (e : Engine) (member : Nat) : List DriveCommand :=
  (List.range e.writtenPositions).map (fun p =>
    { kind := .dread, member := member, block := Config.stagingBlock + p * e.chunk, count := e.chunk, payload := []
      issuer := .stageRead p })

/-- The stage copy cannot be read (R173): the engine enters FAILED, the stage-loss mark is set, and discovery ends. -/
def Bridge.loseStage (b : Bridge) (row : Nat) : Bridge :=
  ((b.onEngine (fun e => { e with stageLoss := some row })).failEngine).endDiscovery .expanding

/-- Discovery goes on to its stage read, or the stage copy cannot be read (R172, R173). -/
def Bridge.beginStageRead (b : Bridge) (row column : Nat) : Bridge :=
  let b := b.onEngine (fun e => { e with slotA := e.stageSlot row })
  let member := b.columnMember .target column
  if b.memberOnline member then
    let step := b.engine.stageReads member
    (b.onDiscovery (fun d => { d with stageReads := some step.length })).issueStep .migration step
  else b.loseStage row

/-- The engine resumes from the chosen record, whose needed layouts are not BROKEN (R171, R172, R174, R175). -/
def Bridge.resumeFrom (b : Bridge) (r : Record) : Bridge :=
  match r.volume, r.stage with
  | .expanding, some (row, column) => b.beginStageRead row column
  | .expanding, none =>
      let b := b.endDiscovery .expanding
      if r.mark == r.current.rows then (b.onEngine (fun e => { e with state := .fill })).startCheckpoint .final none
      else b.allocateRow .a r.mark
  | .initializing, _ =>
      let b := b.endDiscovery .initializing
      if r.mark == r.current.rows then b.startCheckpoint .final none else b
  | .stable, _ => b.endDiscovery .stable
  | .discovering, _ => b.endDiscovery .unformed
  | .unformed, _ => b.endDiscovery .unformed

/-- The test of the needed layouts in the choice event (R170), and what follows it. A BROKEN needed layout is tested first,
as R170 stands before R172: no slot is taken then, and no stage-loss mark is set also where the record's stage member is
not ONLINE, to which R173 would apply as well (log entry 26). -/
def Bridge.testNeeded (b : Bridge) (r : Record) : Bridge :=
  let needed := b.engine.neededIn r.volume
  if needed.any b.broken then b.failEngine.endDiscovery r.volume
  else if needed.any (fun l => b.health l == .degraded) then
    (b.onEngine (fun e => { e with hold := some .member })).resumeFrom r
  else b.resumeFrom r

/-- The choice event with a chosen record (R167 to R170). -/
def Bridge.adopt (b : Bridge) (d : Discovery) (c : Candidate) (r : Record) : Bridge :=
  let members := d.roles r c.holders b.members
  let b := { b with members := members, discovery := some { d with chosen := some c } }
  let b := (b.onEngine (fun e => e.fromRecord r)).refreshHealth
  let b := if members.any (fun m => m.state.isFailed) then b.raise causeMember else b
  b.testNeeded r

/-- The choice event (R167). With no chosen record the volume is UNFORMED, and every member stays as its probe and
reads left it, PRESENT or EMPTY (R168, R175). -/
def Bridge.choose (b : Bridge) : Bridge :=
  match b.discovery with
  | none => b
  | some d =>
      match d.choice with
      | none => b.endDiscovery .unformed
      | some c =>
          match readRecord c.block with
          | none => b.endDiscovery .unformed
          | some r => b.adopt d c r

/-- The stage copy is in slot A (R172, steps 1 to 6): the slot enters FULL and WRITING, the write-out is issued, and
discovery ends. -/
def Bridge.stageCopyRead (b : Bridge) : Bridge :=
  (b.enterWriting .a b.engine.doneMark).endDiscovery .expanding

/-- A read of the stage copy has ended (R172, R173). After discovery has ended its outcome is discarded. -/
def Bridge.stageReadEnded (b : Bridge) (position : Nat) (ending : Ending) : Bridge :=
  if b.discovery.isNone then b
  else
    match ending with
    | .media | .failed => b.loseStage b.engine.doneMark
    | .good blocks =>
        let b := b.onSlot .a (fun s => (s.placed position blocks).full)
        let b := b.onDiscovery (fun d => { d with stageReads := d.stageReads.map (fun n => n - 1) })
        if b.engine.slotA.state == .full then b.stageCopyRead else b

end Sys2Proof.Machine
end

