-- ==== Sys2Proof/Machine/MemberTable.lean ====
section
/-! DEFINITION. The end of a command toward its issuer, the probes of ADMIT, and the failure of a member: its declaration
by the member table, and what becomes of the member's commands (R141, R142, R146, R147, R150). -/

namespace Sys2Proof.Machine

open Sys2Proof

/-! Probes of ADMIT (R150, R151). -/

/-- The command record after a command has ended with a result (R188). -/
def CommandRecord.ended (r : CommandRecord) (code : Nat) (result : CommandResult) : CommandRecord :=
  { r with code := code, result := result, sequence := r.sequence + 1 }

/-- One probe of ADMIT fewer is outstanding; the last one ends the command with OK (R151, R188). -/
def CommandRecord.probeOver (r : CommandRecord) : CommandRecord :=
  match r.state with
  | .idle => r
  | .executing n => if n ≤ 1 then { r with state := .idle }.ended 2 .ok else { r with state := .executing (n - 1) }

/-- A probe of ADMIT has ended, with a capacity or none (R150, R151). -/
def Bridge.admitProbeEnded (b : Bridge) (m : Nat) (capacity : Option Nat) : Bridge :=
  let entry := match capacity with
    | some c => Member.found c
    | none => Member.reset
  { b.onMember m (fun _ => entry) with command := b.command.probeOver }

/-! The end of a command toward its issuer (R141). -/

/-- A command has ended toward its issuer. A probe or a record read that ends here has had no answer. -/
def Bridge.deliver (b : Bridge) (c : DriveCommand) (ending : Ending) : Bridge :=
  match c.issuer with
  | .plainRead tag index => b.plainReadEnded tag index ending
  | .service work role => b.stepCommandEnded work role ending
  | .gather arrival => b.gatherEnded arrival ending
  | .writeOut slot => b.writeOutEnded slot
  | .stageWrite => b.stageWriteEnded ending
  | .checkpoint => b.checkpointWriteEnded c.member ending
  | .stageRead position => b.stageReadEnded position ending
  | .admitProbe => b.admitProbeEnded c.member none
  | .discoveryProbe => b.discoveryProbeEnded c.member none
  | .recordRead odd => b.recordReadEnded c.member odd .gone

/-! The commands of a failed member (R127, R147). -/

/-- A step is one of the parity unit or the router, which a failure withdraws whole (R147). -/
def stepWithdrawnWhole (step : List DriveCommand) : Bool :=
  step.any (fun c => match c.issuer with
    | .plainRead _ _ | .service _ _ => true
    | _ => false)

/-- What ends when a member fails (R147): one of its commands, as failed, or a step of the parity unit that waits, which
is withdrawn (R127). -/
inductive MemberEnd where
  | command (c : DriveCommand)
  | step (work : Work)
  deriving DecidableEq, Repr

/-- What ends of one waiting step when a member fails: a step of the router ends as failed, a step of the parity unit is
withdrawn, and of an engine step the member's commands end as failed (R127, R147). -/
def waitingStepEnds (member : Nat) (step : List DriveCommand) : List MemberEnd :=
  if step.any (fun c => c.member == member) then
    match step with
    | [] => []
    | c :: _ =>
        match c.issuer with
        | .service w _ => [.step w]
        | .plainRead _ _ => [.command c]
        | _ => (step.filter (fun c => c.member == member)).map .command
  else []

/-- What is left of one waiting step when a member fails (R147). -/
def waitingStepLeft (member : Nat) (step : List DriveCommand) : List DriveCommand :=
  if step.any (fun c => c.member == member) && stepWithdrawnWhole step then []
  else step.filter (fun c => c.member != member)

/-- A step wait list when a member fails (R147). -/
def waitListLeft (member : Nat) (steps : List (List DriveCommand)) : List (List DriveCommand) :=
  (steps.map (waitingStepLeft member)).filter (fun s => !s.isEmpty)

/-- A port without the commands of a failed member. The starvation timer stops when the migration queue is left empty,
and runs on otherwise (R156). -/
def ShelfPort.without (p : ShelfPort) (member : Nat) : ShelfPort :=
  let migration := p.migration.filter (fun c => c.member != member)
  { p with
    table := p.table.filter (fun e => e.command.member != member)
    foreground := p.foreground.filter (fun c => c.member != member)
    migration := migration
    starvation := if migration.isEmpty then none else p.starvation }

/-- The commands of a member at its port that end as failed, in the order of R147: outstanding in tag order, then the
foreground queue, then the migration queue. -/
def ShelfPort.commandsOf (p : ShelfPort) (member : Nat) : List DriveCommand :=
  ((p.table.map TagEntry.command) ++ p.foreground ++ p.migration).filter (fun c => c.member == member)

/-- What ends when a member fails, in the order of R147: its commands at its port, then those of the waiting steps,
foreground first. -/
def Bridge.memberEnds (b : Bridge) (member : Nat) : List MemberEnd :=
  ((b.shelf (shelfOf member)).commandsOf member).map .command
    ++ b.foregroundWait.flatMap (waitingStepEnds member) ++ b.migrationWait.flatMap (waitingStepEnds member)

/-- The bridge with no command of a member left: its tags and queue entries are free, and its waiting steps are as R147
leaves them. -/
def Bridge.withoutMember (b : Bridge) (member : Nat) : Bridge :=
  { b.onShelf (shelfOf member) (fun p => p.without member) with
    foregroundWait := waitListLeft member b.foregroundWait
    migrationWait := waitListLeft member b.migrationWait }

/-- One end reaches its issuer. What the issuer then hands over, judges or decides follows in the same event, from the
states that the whole declaration leaves (R120, R127; log entry 16). -/
def Bridge.takeEnd (b : Bridge) : MemberEnd → Bridge
  | .command c => b.deliver c .failed
  | .step w => b.withdrawStep w

/-- The commands of a failed member end toward their issuers (R146, step 2; R147). -/
def Bridge.commandsFail (b : Bridge) (member : Nat) : Bridge :=
  (b.memberEnds member).foldl Bridge.takeEnd (b.withoutMember member)

/-! The declaration of a failure (R146). -/

/-- A member's state becomes FAILED, and the rest of its entry is kept (R146, step 1). -/
def Bridge.markFailed (b : Bridge) (member : Nat) : Bridge :=
  { b with members := b.members.modify member (fun e => { e with state := .failed }) }

/-- Engine work in flight needs a layout that is BROKEN (R93, R94): a gather read the current layout, and a write-out the
layout it writes, also one that was in flight at the declaration and whose last writes ended in it (log entries 13
and 16). -/
def Bridge.brokenWork (b : Bridge) (wroteOut : Bool) : Bool :=
  (b.gatherInFlight && b.broken .current)
    || ((wroteOut || b.engine.writeOutInFlight) && b.broken b.engine.writtenLayout)

/-- The engine learns of a failure (R146, step 4): it enters FAILED when its work in flight needs a layout that is now
BROKEN, and otherwise sets a hold request with cause MEMBER when the member is a column of a needed layout and it is in
COPY, FILL or RECOVER (R93). -/
def Bridge.engineLearns (b : Bridge) (member : Nat) (wroteOut : Bool) : Bridge :=
  if b.brokenWork wroteOut then b.failEngine
  else if b.neededColumn member && b.engine.takesHold then b.onEngine (fun e => { e with hold := some .member })
  else b

/-- The member table declares an ONLINE member FAILED (R146): its state changes, its commands end, the health is computed
anew, the engine learns of it, and alert cause MEMBER is set, in this order. -/
def Bridge.declareFailed (b : Bridge) (member : Nat) : Bridge :=
  let ended := ((b.markFailed member).commandsFail member).refreshHealth
  (ended.engineLearns member b.engine.writeOutInFlight).raise causeMember

/-- The media error count of a member is raised by one and stays at 255 (R142). -/
def Bridge.raiseMedia (b : Bridge) (member : Nat) : Bridge :=
  b.onMember member (fun e => { e with media := min (e.media + 1) 255 })

/-- A command ends as failed and makes its member FAILED. Only an ONLINE member is declared (R144); otherwise the
command alone ends. -/
def Bridge.failCommand (b : Bridge) (port : Nat) (e : TagEntry) : Bridge :=
  if b.memberOnline e.command.member then b.declareFailed e.command.member
  else (b.freeTag port e.tag).push [.deliver e.command .failed]

end Sys2Proof.Machine
end

