-- ==== Sys2Proof/Machine/Cascade.lean ====
section
/-! DEFINITION. The course of an event: its inner actions, the grants of the shelf ports, the dispatch of pieces and gather
reads, and the engine's next step, taken in a fixed order until nothing is left to do (NOTES.md, log entries 2, 4
and 5). -/

namespace Sys2Proof.Machine

open Sys2Proof

/-! Inner actions. -/

/-- One inner action. -/
def Bridge.perform (cfg : Settings) (b : Bridge) : Action → Bridge
  | .deliver c ending => b.deliver c ending
  | .judgeStep work => b.judgeWork work
  | .decideAgain work => b.decideAgain work
  | .finishPiece tag index outcome blocks => b.finishPiece cfg tag index outcome blocks
  | .handOver work write =>
      match b.workPlace work with
      | none => b
      | some place => b.takeHandOver work write place
  | .beginService work => b.beginService work
  | .gatherPresent arrival blocks => b.gatherPresent arrival blocks
  | .afterWriteOut row => b.afterWriteOut cfg row
  | .stageWritten => b.stageWritten
  | .stageDurable => b.stageDurable
  | .failEngine => b.failEngine
  | .gateOpened row => b.gateOpened row
  | .choose => b.choose

/-- One inner action with the rest still to come: what it gives rise to is taken before the rest. -/
def Bridge.performFirst (cfg : Settings) (b : Bridge) (a : Action) (rest : List Action) : Bridge :=
  let b := { b with work := [] }.perform cfg a
  { b with work := b.work ++ rest }

/-- Dispatch: of the earliest waiting piece that may leave WAITING and the earliest gather read that may be released, the
one of earlier arrival number (R33). -/
def Bridge.dispatchNext (b : Bridge) : Option Bridge :=
  match b.nextPiece, b.nextGather with
  | none, none => none
  | some (_, tag, index), none => some (b.dispatchPiece tag index)
  | none, some g => some (b.releaseGather g)
  | some (arrival, tag, index), some g =>
      if arrivalEarlier g.arrival arrival then some (b.releaseGather g) else some (b.dispatchPiece tag index)

/-- The next thing that happens in an event, none when the event is over: an inner action, then an act of the shelf
ports, then a dispatch, then a step of the engine. A grant and a change of F may come in either order (R159): the model's
choice is the change of F first, where one event brings both (log entry 24). -/
def Bridge.tick (cfg : Settings) (b : Bridge) : Option Bridge :=
  match b.work with
  | a :: rest => some (b.performFirst cfg a rest)
  | [] =>
      match b.pump cfg with
      | some b' => some b'
      | none =>
          match b.dispatchNext with
          | some b' => some b'
          | none => b.engineAdvance

/-- At most `fuel` things that happen in an event. -/
def Bridge.settleWithin (cfg : Settings) : Nat → Bridge → Bridge
  | 0, b => b
  | fuel + 1, b =>
      match b.tick cfg with
      | some b' => settleWithin cfg fuel b'
      | none => b

/-- An event runs to its end. -/
def Bridge.settle (cfg : Settings) (b : Bridge) : Bridge := b.settleWithin cfg Config.cascadeBound

/-! Answers of drives and expiries of timers (R134, R139, R141). -/

/-- The port takes the answer to a tag's command (R134, R148): the slot is that of the command, and its member is
neither FAILED nor STALE. -/
def Bridge.takesAnswer (b : Bridge) (e : TagEntry) (slot : Byte) : Bool :=
  slot.toNat == slotOf e.command.member && !b.memberFailed e.command.member

/-- How an answer is taken (R134, R198). -/
inductive Answer where
  | good
  | media
  | noSlot
  deriving DecidableEq, Repr

/-- An answer's status byte, with the answers whose content does not fit their command taken as DMEDIA (R134, R198). -/
def answerOf (c : DriveCommand) (status : Byte) (body : Body) : Answer :=
  if status == 0x00 then
    match c.kind with
    | .dread => if body.blocks.length == c.count && body.tail.isEmpty then .good else .media
    | .dwrite => .good
    | .dprobe => if 6 ≤ body.length then .good else .media
  else if status == 0x02 then .noSlot
  else .media

/-- The capacity that an answer to a probe carries: 48 bits in its first six bytes (R198). -/
def answeredCapacity (body : Body) : Nat := leNat ((List.range 6).map (fun i => (bodyByte body i).getD 0))

/-- A probe of ADMIT or of discovery has ended (R150, R164). -/
def Bridge.probeEnded (b : Bridge) (c : DriveCommand) (capacity : Option Nat) : Bridge :=
  match c.issuer with
  | .admitProbe => b.admitProbeEnded c.member capacity
  | _ => b.discoveryProbeEnded c.member capacity

/-- A taken answer to a read or write is judged: the member table acts first, and the issuer receives the outcome that
remains (R141, R142). -/
def Bridge.judgeAnswer (cfg : Settings) (b : Bridge) (port : Nat) (e : TagEntry) (answer : Answer)
    (blocks : List Block) : Bridge :=
  let member := e.command.member
  match answer with
  | .good => (b.freeTag port e.tag).push [.deliver e.command (.good blocks)]
  | .noSlot => b.failCommand port e
  | .media =>
      let b := b.raiseMedia member
      if e.command.kind == .dwrite || cfg.mediaLimit ≤ (b.member member).media then b.failCommand port e
      else (b.freeTag port e.tag).push [.deliver e.command .media]

/-- The outcome of an answer to a record read (R165). -/
def recordOutcome (answer : Answer) (blocks : List Block) : RecordOutcome :=
  match answer with
  | .good => .block (blocks.headD 0)
  | .media => .media
  | .noSlot => .gone

/-- A taken answer (R141; R164 and R165 for those of discovery). -/
def Bridge.answerTaken (cfg : Settings) (b : Bridge) (port : Nat) (e : TagEntry) (status : Byte) (body : Body) :
    Bridge :=
  let answer := answerOf e.command status body
  match e.command.kind with
  | .dprobe =>
      (b.freeTag port e.tag).probeEnded e.command (if answer == .good then some (answeredCapacity body) else none)
  | .dread | .dwrite =>
      match e.command.issuer with
      | .recordRead odd =>
          (b.freeTag port e.tag).recordReadEnded e.command.member odd (recordOutcome answer body.blocks)
      | _ => b.judgeAnswer cfg port e answer (if e.command.kind == .dread then body.blocks else [])

/-- An answer reaches a port: it is taken, with everything that follows, or discarded without a change (R134). -/
def Bridge.driveAnswer (cfg : Settings) (b : Bridge) (port : Nat) (tag slot status : Byte) (body : Body) : Bridge :=
  match b.tagEntry? port tag.toNat with
  | none => b
  | some e => if b.takesAnswer e slot then (b.answerTaken cfg port e status body).settle cfg else b

/-- A command is sent again under its tag, on its next attempt, with its timer started again (R139). -/
def Bridge.reissue (cfg : Settings) (b : Bridge) (port : Nat) (e : TagEntry) : Bridge :=
  let again := { e with attempt := e.attempt + 1, timer := cfg.cmdTimeout }
  (b.onShelf port (fun p =>
    { p with table := p.table.map (fun x => if x.tag == e.tag then again else x) })).send (driveFrame e.tag e.command)

/-- The last attempt of a command has expired (R139, R141, R165). -/
def Bridge.lastExpiry (b : Bridge) (port : Nat) (e : TagEntry) : Bridge :=
  match e.command.kind with
  | .dprobe => (b.freeTag port e.tag).probeEnded e.command none
  | .dread | .dwrite =>
      match e.command.issuer with
      | .recordRead odd => (b.freeTag port e.tag).recordReadEnded e.command.member odd .gone
      | _ => b.failCommand port e

/-- The timer of a tag's command expires (R139): the command is reissued while its attempt number is at most
retry_limit, and otherwise its last attempt has expired, with everything that follows. With no command outstanding
under the tag nothing changes. -/
def Bridge.timerExpires (cfg : Settings) (b : Bridge) (port tag : Nat) : Bridge :=
  match b.tagEntry? port tag with
  | none => b
  | some e => if e.attempt ≤ cfg.retryLimit then b.reissue cfg port e else (b.lastExpiry port e).settle cfg

end Sys2Proof.Machine
end

