-- ==== Sys2Proof/Machine/ArrayLink.lean ====
section
/-! DEFINITION. Events, and the steps of the array link: READ, WRITE, FLUSH, CAPACITY and UNKNOWN_KIND (chapter 2). -/

namespace Sys2Proof.Machine

open Sys2Proof

/-! Events. -/

/-- The alert line is active: some cause is set whose enable bit is set (R195). -/
def alertActive (enable causes : BitVec 5) : Bool := causes &&& enable != 0

/-- The alert line follows the causes and the enable bits in every event (R195). -/
def State.driveAlert (s : State) : State :=
  { s with alertLine := alertActive s.mgmt.settings.alertEnable s.bridge.causes }

/-- An event acts on the bridge. The frames of the event before are no longer shown. -/
def State.onBridge (f : Bridge → Bridge) (s : State) : State :=
  ({ s with bridge := f { s.bridge with sent := [] } }).driveAlert

/-! Header tests (R21 to R25). -/

/-- The 16 header bytes of a frame with a kind byte (R197). -/
def headerBytes (kind : Byte) (h : Header) : List Byte :=
  [kind, h.tag] ++ leBytes 2 h.count.toNat ++ leBytes 6 h.lba.toNat ++ leBytes 5 h.carried.toNat ++ [h.check]

/-- The check byte computed over header bytes 0 to 14 (R22). -/
def computedCheck (kind : Byte) (h : Header) : Byte := crc8 ((headerBytes kind h).take 15)

/-- The header check fails: it is made while check_enable is on (R22). -/
def checkFails (cfg : Settings) (kind : Byte) (h : Header) : Bool := cfg.checkEnable && computedCheck kind h != h.check

/-- The capture record after a capture (R38). -/
def captureAfter (before : Option Capture) (cause : CaptureCause) (kind : Byte) (h : Header) : Capture :=
  match before with
  | none => { cause := cause, header := headerBytes kind h, computed := computedCheck kind h, overrun := false }
  | some c => { c with overrun := true }

/-- The array port after a capture: the record, the count, and in STRICT mode the fence (R38, R39). -/
def ArrayPort.capturing (cfg : Settings) (p : ArrayPort) (cause : CaptureCause) (kind : Byte) (h : Header) : ArrayPort :=
  { p with
    capture := some (captureAfter p.capture cause kind h), captures := p.captures + 1
    check := if cfg.checkMode == .strict then .fenced else p.check }

/-- A frame is discarded and captured (R38, R39). -/
def Bridge.captureFrame (cfg : Settings) (b : Bridge) (cause : CaptureCause) (kind : Byte) (h : Header) : Bridge :=
  ({ b with port := b.port.capturing cfg cause kind h }).raise causeCapture

/-- A frame is answered at once (R25). -/
def Bridge.answer (b : Bridge) (h : Header) (status : Status) : Bridge := b.send (completionFrame h.tag status [])

/-- What decides a frame at steps 1 to 4 of R21. -/
inductive EarlyTest where
  | check
  | busy
  | badTag
  | dupTag
  | passed
  deriving DecidableEq, Repr

/-- The outcome of steps 1 to 4 of R21. -/
def Bridge.earlyTest (cfg : Settings) (b : Bridge) (kind : Byte) (h : Header) : EarlyTest :=
  if checkFails cfg kind h then .check
  else if b.engine.volume == .discovering then .busy
  else if Config.requestTags ≤ h.tag.toNat then .badTag
  else if b.port.outstanding h.tag.toNat then .dupTag
  else .passed

/-- A frame that steps 1 to 4 of R21 decide, and the rest of its handling otherwise. -/
def Bridge.takeFrame (cfg : Settings) (b : Bridge) (kind : Byte) (h : Header) (rest : Bridge → Bridge) : Bridge :=
  match b.earlyTest cfg kind h with
  | .check => b.captureFrame cfg .check kind h
  | .busy => b.answer h .busy
  | .badTag => b.answer h .invalid
  | .dupTag => b.captureFrame cfg .dupTag kind h
  | .passed => rest b

/-! Acceptance (R10, R27, R29). -/

/-- The count test: 1 to 256 blocks (R10). -/
def countValid (h : Header) : Bool := 1 ≤ h.count.toNat && h.count.toNat ≤ Config.maxCount

/-- The range test against the visible capacity (R10). -/
def Bridge.inRange (b : Bridge) (h : Header) : Bool :=
  h.lba.toNat + h.count.toNat ≤ b.engine.visibleCapacity

/-- The pool has the pieces that the request needs (R29). -/
def Bridge.hasPieces (b : Bridge) (h : Header) : Bool :=
  pieceCount b.engine.chunk h.lba.toNat h.count.toNat ≤ b.port.freePieces

/-- The status of a READ or WRITE that steps 9 to 12 of R21 decide; none when it is accepted. -/
def Bridge.lateTest (b : Bridge) (h : Header) (payloadFits : Bool) : Option Status :=
  if !countValid h then some .invalid
  else if !payloadFits then some .invalid
  else if !b.inRange h then some .range
  else if !b.hasPieces h then some .busy
  else none

/-- The entry of a request as it is accepted (R27). -/
def Bridge.newRequest (b : Bridge) (h : Header) (kind : RequestKind) (buffer : List Block) : Request :=
  { tag := h.tag.toNat, kind := kind, lba := h.lba.toNat, count := h.count.toNat, arrival := b.port.arrivals
    pieces := match kind with
      | .read => splitRequest b.engine.chunk .read h.lba.toNat h.count.toNat
      | .write => splitRequest b.engine.chunk .write h.lba.toNat h.count.toNat
      | .flush => []
    status := .good, buffer := buffer }

/-- A request enters the table and takes its arrival number (R27). -/
def Bridge.enter (b : Bridge) (r : Request) : Bridge :=
  { b with port := { b.port with table := b.port.table ++ [r], arrivals := b.port.arrivals + 1 } }

/-- A READ or WRITE is accepted (R27, R41), and its pieces are dispatched as far as they may be (R33). -/
def Bridge.accept (cfg : Settings) (b : Bridge) (h : Header) (kind : RequestKind) (buffer : List Block) : Bridge :=
  ((b.enter (b.newRequest h kind buffer)).foregroundChanged cfg).settle cfg

/-- Steps 9 to 13 of R21 for a READ. -/
def Bridge.readRest (cfg : Settings) (h : Header) (b : Bridge) : Bridge :=
  match b.lateTest h true with
  | some status => b.answer h status
  | none => b.accept cfg h .read (zeroBlocks h.count.toNat)

/-- A WRITE's payload is count × 4096 bytes (R24). -/
def payloadFits (h : Header) (payload : Body) : Bool :=
  payload.blocks.length == h.count.toNat && payload.tail.isEmpty

/-- Steps 7 to 13 of R21 for a WRITE. -/
def Bridge.writeRest (cfg : Settings) (h : Header) (payload : Body) (b : Bridge) : Bridge :=
  if b.port.check == .fenced then b.answer h .fenced
  else
    match b.lateTest h (payloadFits h payload) with
    | some status => b.answer h status
    | none => b.accept cfg h .write payload.blocks

/-- Step 8 of R21 for a FLUSH: it is accepted, and completes at once when nothing earlier is outstanding (R37). -/
def Bridge.flushRest (h : Header) (b : Bridge) : Bridge := (b.enter (b.newRequest h .flush [])).testFlushes

/-- The 18 bytes of the CAPACITY reply (R26, R197). -/
def Engine.capacityReply (e : Engine) : List Byte :=
  leBytes 6 e.visibleCapacity ++ leBytes 8 e.generation.toNat ++ leBytes 1 e.volume.code
    ++ leBytes 1 ((e.current.map Descriptor.chunk).getD 0) ++ leBytes 1 ((e.current.map Descriptor.dataColumns).getD 0)
    ++ leBytes 1 (if e.volume == .expanding then 1 else 0)

/-- Step 6 of R21 for a CAPACITY (R26). -/
def Bridge.capacityRest (h : Header) (b : Bridge) : Bridge :=
  b.send (.arrayFrame ([h.tag, Status.good.code] ++ b.engine.capacityReply) [])

/-! The steps. -/

/-- READ: a request frame whose kind byte is 0x01 (R21, R27). The bytes after its header are discarded (R24). -/
def execRead (h : Header) (_extra : Body) (s : State) : Host.Outcome State Fault Refusal :=
  .next (s.onBridge (fun b => b.takeFrame s.mgmt.settings 0x01 h (Bridge.readRest s.mgmt.settings h)))

/-- WRITE: a request frame whose kind byte is 0x02, with its payload (R21, R27). -/
def execWrite (h : Header) (payload : Body) (s : State) : Host.Outcome State Fault Refusal :=
  .next (s.onBridge (fun b => b.takeFrame s.mgmt.settings 0x02 h (Bridge.writeRest s.mgmt.settings h payload)))

/-- FLUSH: a request frame whose kind byte is 0x03 (R21, R37). -/
def execFlush (h : Header) (_extra : Body) (s : State) : Host.Outcome State Fault Refusal :=
  .next (s.onBridge (fun b => b.takeFrame s.mgmt.settings 0x03 h (Bridge.flushRest h)))

/-- CAPACITY: a request frame whose kind byte is 0x04 (R21, R26). -/
def execCapacity (h : Header) (_extra : Body) (s : State) : Host.Outcome State Fault Refusal :=
  .next (s.onBridge (fun b => b.takeFrame s.mgmt.settings 0x04 h (Bridge.capacityRest h)))

/-- UNKNOWN_KIND: a request frame with another kind byte completes INVALID at step 5 (R21, R24). -/
def execUnknownKind (kind : Byte) (h : Header) (_extra : Body) (s : State) : Host.Outcome State Fault Refusal :=
  .next (s.onBridge (fun b => b.takeFrame s.mgmt.settings kind h (fun b => b.answer h .invalid)))

end Sys2Proof.Machine
end

