-- ==== Sys2Proof/Machine/Spaces.lean ====
section
/-! DEFINITION. The spaces of the management line: what a read of each returns, and what a write to space 0 or 3 stores
(R184 to R187, R154, R157). -/

namespace Sys2Proof.Machine

open Sys2Proof

/-! The codes of R184. -/

/-- The code of an engine state (R184). -/
def EngineState.code : EngineState → Nat
  | .idle => 0
  | .copy => 1
  | .fill => 2
  | .held => 3
  | .recover => 4
  | .failed => 5

/-- The code of a member state (R184). -/
def MemberState.code : MemberState → Nat
  | .empty => 0
  | .present => 1
  | .online => 2
  | .failed => 3
  | .stale => 4

/-- The code of a layout health (R184). -/
def Health.code : Health → Nat
  | .absent => 0
  | .ok => 1
  | .degraded => 2
  | .broken => 3

/-- The code of a pacing mode (R184). -/
def Pacing.code : Pacing → Nat
  | .normal => 0
  | .yield => 1

/-- The code of a command state (R184). -/
def CommandState.code : CommandState → Nat
  | .idle => 0
  | .executing _ => 1

/-- The code of a result (R184). -/
def CommandResult.code : CommandResult → Nat
  | .blank => 0
  | .ok => 1
  | .refusedState => 2
  | .invalidDesc => 3
  | .busy => 4

/-! Blocks that a read returns. -/

/-- The settings block of 16 bytes (R185). -/
def Settings.bytes (c : Settings) : List Byte :=
  [if c.checkEnable then 1 else 0, if c.checkMode == .persistent then 1 else 0]
    ++ leBytes 1 c.cmdTimeout ++ leBytes 1 c.retryLimit ++ leBytes 1 c.mediaLimit ++ leBytes 1 c.yieldEnter
    ++ leBytes 1 c.yieldExit ++ leBytes 1 c.weight ++ leBytes 2 c.starveLimit ++ leBytes 2 c.cpInterval
    ++ [c.alertEnable.setWidth 8, 0, 0, 0]

/-- The status block of 48 bytes (R186). -/
def State.statusBytes (s : State) : List Byte :=
  let e := s.bridge.engine
  let r := s.bridge.command
  leBytes 1 e.volume.code ++ leBytes 1 e.state.code ++ leBytes 1 s.bridge.pacing.code ++ leBytes 1 r.state.code
    ++ leBytes 1 r.code ++ leBytes 1 r.result.code ++ [r.sequence, s.bridge.causes.setWidth 8]
    ++ leBytes 1 s.bridge.port.foreground ++ leBytes 1 s.bridge.parity.healthCurrent.code
    ++ leBytes 1 s.bridge.parity.healthTarget.code ++ [0] ++ leBytes 6 e.doneMark ++ leBytes 6 e.checkMark
    ++ leBytes 8 e.generation.toNat ++ leBytes 6 ((e.current.map Descriptor.rows).getD 0)
    ++ leBytes 2 s.bridge.port.captures.toNat ++ leBytes 2 s.mgmt.frameErrors.toNat ++ leBytes 6 0

/-- A column in a member entry: 0xFF for none (R187). -/
def columnByte : Option Nat → Byte
  | some c => BitVec.ofNat 8 c
  | none => 0xFF

/-- A member entry block of 24 bytes (R187). -/
def Member.bytes (m : Member) : List Byte :=
  leBytes 1 m.state.code ++ [columnByte m.currentColumn, columnByte m.targetColumn] ++ leBytes 1 m.media
    ++ leBytes 6 m.capacity ++ leBytes 6 0 ++ leBytes 8 ((m.best.map BitVec.toNat).getD 0)

/-- The staged descriptor block of 32 bytes (R187). -/
def StagedDescriptor.bytes (d : StagedDescriptor) : List Byte :=
  [d.columns, d.chunk] ++ leBytes 6 0 ++ d.members

/-- The code of a capture cause (R187). -/
def CaptureCause.code : CaptureCause → Byte
  | .check => 1
  | .dupTag => 2

/-- The capture record block of 20 bytes (R187). -/
def captureBytes : Option Capture → List Byte
  | none => List.replicate 20 0
  | some c => [c.cause.code, if c.overrun then 1 else 0, c.computed, 0] ++ c.header

/-- The `length` bytes of a space from an index (R182, R184): bytes that no block holds are zero. -/
def State.spaceBytes (s : State) (space index length : Nat) : List Byte :=
  match space with
  | 0 => bytesFrom s.mgmt.settings.bytes index length
  | 1 => bytesFrom s.statusBytes index length
  | 2 => if index < Config.memberCount then bytesFrom (s.bridge.member index).bytes 0 length else List.replicate length 0
  | 3 => bytesFrom s.mgmt.staged.bytes index length
  | 5 => bytesFrom (captureBytes s.bridge.port.capture) index length
  | 6 =>
      let e := s.bridge.engine
      bytesFrom (descriptorBytes (e.presentDescriptor .current) ++ descriptorBytes (e.presentDescriptor .target)) index length
  | _ => List.replicate length 0

/-! Writes (R154, R157, R185, R187). -/

/-- A write from an index covers an offset. -/
def covers (index : Nat) (data : List Byte) (offset : Nat) : Bool := index ≤ offset && offset < index + data.length

/-- The byte that a write leaves at an offset: the written one, or the stored one where it writes none. -/
def written (index : Nat) (data : List Byte) (offset stored : Nat) : Nat :=
  if covers index data offset then (data.getD (offset - index) 0).toNat else stored

/-- A value brought into a range. -/
def clamp (low high v : Nat) : Nat := max low (min high v)

/-- A setting after a write: the clamped value when the write covers it. -/
def stored (covered : Bool) (low high new before : Nat) : Nat := if covered then clamp low high new else before

/-- yield_exit after a write that sets it or yield_enter: below yield_enter (R154). -/
def yieldClamp (enter exit : Nat) : Nat := if enter ≤ exit then enter - 1 else exit

/-- The settings after a write of bytes from an index (R185). -/
def Settings.write (c : Settings) (index : Nat) (data : List Byte) : Settings :=
  let has := covers index data
  let new := written index data
  let enter := stored (has 5) 1 128 (new 5 c.yieldEnter) c.yieldEnter
  { checkEnable := if has 0 then new 0 0 != 0 else c.checkEnable
    checkMode := if has 1 then (if new 1 0 == 0 then .strict else .persistent) else c.checkMode
    cmdTimeout := stored (has 2) 1 255 (new 2 c.cmdTimeout) c.cmdTimeout
    retryLimit := stored (has 3) 0 7 (new 3 c.retryLimit) c.retryLimit
    mediaLimit := stored (has 4) 1 255 (new 4 c.mediaLimit) c.mediaLimit
    yieldEnter := enter
    yieldExit := if has 5 || has 6 then yieldClamp enter (new 6 c.yieldExit) else c.yieldExit
    weight := stored (has 7) 1 16 (new 7 c.weight) c.weight
    starveLimit := stored (has 8 || has 9) 1 1000
      (new 8 (c.starveLimit % 256) + 256 * new 9 (c.starveLimit / 256)) c.starveLimit
    cpInterval := stored (has 10 || has 11) 1 4096
      (new 10 (c.cpInterval % 256) + 256 * new 11 (c.cpInterval / 256)) c.cpInterval
    alertEnable := if has 12 then BitVec.ofNat 5 (new 12 0) else c.alertEnable }

/-- The staged descriptor after a write of bytes from an index (R187): bytes 2 to 7 hold nothing. -/
def StagedDescriptor.write (d : StagedDescriptor) (index : Nat) (data : List Byte) : StagedDescriptor :=
  let block := spliceAt d.bytes index data
  { columns := block.getD 0 0, chunk := block.getD 1 0, members := block.drop 8 }

/-! Descriptors from the staged one (R189, R190). -/

/-- The staged column count is in its range (R1). -/
def StagedDescriptor.columnsValid (d : StagedDescriptor) : Bool := 3 ≤ d.columns.toNat && d.columns.toNat ≤ 24

/-- The member list that the staged descriptor names: entries from N on are not used (R187). -/
def StagedDescriptor.list (d : StagedDescriptor) : List Nat := (d.members.take d.columns.toNat).map BitVec.toNat

/-- The staged descriptor with a row count. -/
def StagedDescriptor.withRows (d : StagedDescriptor) (rows : Nat) : Descriptor :=
  { chunk := d.chunk.toNat, rows := rows, members := d.list }

/-- The descriptor that CREATE adopts, when the staged one passes its test (R4, R189). -/
def Bridge.createDescriptor (b : Bridge) (d : StagedDescriptor) : Option Descriptor :=
  let desc := d.withRows (rowsFor d.chunk.toNat (smallest (d.list.map (fun m => (b.member m).capacity))))
  if d.columnsValid && desc.wellFormed && desc.members.all (fun m => (b.member m).state == .present) then some desc
  else none

/-- An added member can carry the rows of the volume: PRESENT, with a capacity of at least 1024 + R × C (R13, R190). -/
def Bridge.canJoin (b : Bridge) (cur : Descriptor) (m : Nat) : Bool :=
  (b.member m).state == .present && Config.firstDataBlock + cur.rows * cur.chunk ≤ (b.member m).capacity

/-- The descriptor that START adopts as the target, when the staged one passes its test (R13, R190). -/
def Bridge.startDescriptor (b : Bridge) (d : StagedDescriptor) : Option Descriptor :=
  match b.engine.current with
  | none => none
  | some cur =>
      let desc := d.withRows cur.rows
      if d.columnsValid && desc.wellFormed && relatedTarget cur desc
          && (desc.members.drop cur.columns).all (b.canJoin cur) then some desc
      else none

end Sys2Proof.Machine
end

