-- ==== Sys2Proof/Machine/Management.lean ====
section
/-! DEFINITION. The management line: its bytes and frames, the processing of write frames, the commands, and the reset
(chapter 10, R163). -/

namespace Sys2Proof.Machine

open Sys2Proof

/-! Events of the line. -/

/-- The state with its management controller changed. -/
def State.onMgmt (s : State) (f : Management → Management) : State := { s with mgmt := f s.mgmt }

/-- The part acknowledges, or does not acknowledge, some bytes. -/
def State.ackBytes (s : State) (acknowledged : Bool) (bytes : Nat) : State :=
  { s with bridge := s.bridge.send (.lineAck acknowledged bytes) }

/-- An event of the management line. The frames of the event before are no longer shown. -/
def State.lineEvent (f : State → State) (s : State) : State :=
  (f { s with bridge := { s.bridge with sent := [] } }).driveAlert

/-- A receive buffer is empty, with the line taking no frame (R179). -/
def Management.hasRoom (m : Management) : Bool := m.waiting.length < Config.receiveBuffers

/-! Control words (R200). -/

/-- The number of data bytes of a control word's length code (R200). -/
def controlLength (c : Byte) : Nat := 4 <<< (c.extractLsb' 4 2).toNat

/-- The direction of a control word is write (R200). -/
def controlWrite (c : Byte) : Bool := !c.getLsbD 7

/-- The check flag of a control word (R200). -/
def controlCheck (c : Byte) : Bool := c.getLsbD 6

/-- The space of a control word (R200). -/
def controlSpace (c : Byte) : Nat := (c.extractLsb' 0 4).toNat

/-- The index of a control word, sent high byte first (R200). -/
def controlIndex (high low : Byte) : Nat := 256 * high.toNat + low.toNat

/-! The tests of a complete write frame (R181). -/

/-- What the processing of a complete write frame turns out to be: the rows of the opcode table that process one. -/
inductive FrameRow where
  | settings | staged | create | admitMembers | start | pause | resume | cancel | ack | clearCapture | restart
  | discarded
  deriving DecidableEq, Repr

/-- The command of a code, with the least number of data bytes it needs (R188). -/
def commandRow : Nat → Option (FrameRow × Nat)
  | 1 => some (.create, 4)
  | 2 => some (.admitMembers, 16)
  | 3 => some (.start, 4)
  | 4 => some (.pause, 4)
  | 5 => some (.resume, 4)
  | 6 => some (.cancel, 4)
  | 7 => some (.ack, 4)
  | 8 => some (.clearCapture, 4)
  | 9 => some (.restart, 4)
  | _ => none

/-- The first control byte of a stored frame. -/
def WriteFrame.control (f : WriteFrame) : Byte := f.bytes.getD 0 0

/-- The length L of a stored frame. -/
def WriteFrame.length (f : WriteFrame) : Nat := controlLength f.control

/-- The data bytes of a stored frame. -/
def WriteFrame.data (f : WriteFrame) : List Byte := (f.bytes.drop 3).take f.length

/-- The index of a stored frame. -/
def WriteFrame.index (f : WriteFrame) : Nat := controlIndex (f.bytes.getD 1 0) (f.bytes.getD 2 0)

/-- The length test of R181. -/
def WriteFrame.lengthRight (f : WriteFrame) : Bool :=
  !f.overlong && f.bytes.length == 3 + f.length + (if controlCheck f.control then 1 else 0)

/-- The CRC test of R181. -/
def WriteFrame.crcRight (f : WriteFrame) : Bool :=
  !controlCheck f.control || crc8 (0x58 :: f.bytes.take (3 + f.length)) == f.bytes.getD (3 + f.length) 0

/-- The space, index and content tests of R181, on a frame whose length and CRC are right. -/
def WriteFrame.addressed (f : WriteFrame) : FrameRow :=
  match controlSpace f.control with
  | 0 => if f.index + f.length ≤ 16 then .settings else .discarded
  | 3 => if f.index + f.length ≤ 32 then .staged else .discarded
  | 4 =>
      if f.index != 0 then .discarded
      else
        match commandRow (f.data.getD 0 0).toNat with
        | some (row, least) => if least ≤ f.length then row else .discarded
        | none => .discarded
  | _ => .discarded

/-- What the processing of a complete write frame turns out to be (R181). -/
def WriteFrame.row (f : WriteFrame) : FrameRow := if f.lengthRight && f.crcRight then f.addressed else .discarded

/-! Commands (R188 to R193). -/

/-- A command ends in the event that takes it, with its result recorded; one that is taken runs on (R188). -/
def State.recordResult (s : State) (code : Nat) (result : CommandResult) (b : Bridge) : State :=
  let b := { b with command := b.command.ended code result }
  { s with bridge := if result == .ok then b.settle s.mgmt.settings else b }

/-- The command state is EXECUTING (R188). -/
def CommandRecord.busy (r : CommandRecord) : Bool := r.state != .idle

/-- A command that is refused while the volume is DISCOVERING, and while ADMIT executes (R188). -/
def State.gatedCommand (s : State) (code : Nat) (act : Bridge → CommandResult × Bridge) : State :=
  if s.bridge.command.busy then s.recordResult code .busy s.bridge
  else if s.bridge.engine.volume == .discovering then s.recordResult code .refusedState s.bridge
  else s.recordResult code (act s.bridge).1 (act s.bridge).2

/-- The member table takes the members of a descriptor as ONLINE columns (R145). -/
def takeColumns (desc : Descriptor) (members : List Member) : List Member :=
  members.mapIdx (fun m e =>
    match columnOf desc.members m with
    | some c => { e with state := .online, currentColumn := some c }
    | none => e)

/-- CREATE: its result, and what it does when it is accepted (R85, R189). -/
def Bridge.create (b : Bridge) (d : StagedDescriptor) : CommandResult × Bridge :=
  if b.engine.volume != .unformed then (.refusedState, b)
  else
    match b.createDescriptor d with
    | none => (.invalidDesc, b)
    | some desc =>
        let b := { b with members := takeColumns desc b.members }
        let b := b.onEngine (fun e =>
          { e with
            current := some desc, target := none, volume := .initializing, doneMark := 0, checkMark := 0, state := .fill })
        (.ok, b.refreshHealth.startCheckpoint .openingCreate none)

/-- The member table takes the target columns of an expansion, its added members ONLINE (R145). -/
def takeTargetColumns (cur desc : Descriptor) (members : List Member) : List Member :=
  members.mapIdx (fun m e =>
    match columnOf desc.members m with
    | some c => { e with targetColumn := some c, state := if cur.columns ≤ c then .online else e.state }
    | none => e)

/-- START: its result, and what it does when it is accepted (R86, R190). -/
def Bridge.start (b : Bridge) (d : StagedDescriptor) : CommandResult × Bridge :=
  if b.engine.volume != .stable then (.refusedState, b)
  else
    match b.engine.current, b.startDescriptor d with
    | some cur, some desc =>
        let b := { b with members := takeTargetColumns cur desc b.members }
        let b := b.onEngine (fun e =>
          { e with target := some desc, volume := .expanding, doneMark := 0, checkMark := 0, state := .copy })
        (.ok, b.refreshHealth.startCheckpoint .openingStart none)
    | _, _ => (.invalidDesc, b)

/-- Member `m` is named in an ADMIT mask: bit `m mod 8` of operand byte `floor(m / 8)` (R200). -/
def maskNames (mask : List Byte) (m : Nat) : Bool := (mask.getD (m / 8) 0).getLsbD (m % 8)

/-- A member may be probed by ADMIT: EMPTY or PRESENT, and no column (R149). -/
def Member.probeable (e : Member) : Bool :=
  (e.state == .empty || e.state == .present) && e.currentColumn.isNone && e.targetColumn.isNone

/-- The members that an ADMIT probes, in ascending order (R149). -/
def Bridge.admitted (b : Bridge) (mask : List Byte) : List Nat :=
  (List.range Config.memberCount).filter (fun m => maskNames mask m && (b.member m).probeable)

/-- The DPROBE of ADMIT to a member (R149). -/
def admitProbe (member : Nat) : DriveCommand :=
  { kind := .dprobe, member := member, block := 0, count := 0, payload := [], issuer := .admitProbe }

/-- ADMIT has probes to make: the command state is EXECUTING and its code is recorded with no result (R149, R188). -/
def Bridge.beginAdmit (b : Bridge) (members : List Nat) : Bridge :=
  let b := { b with command := { b.command with state := .executing members.length, code := 2, result := .blank } }
  members.foldl (fun b m => b.issueStep .migration [admitProbe m]) b

/-- ADMIT (R149, R151, R188, R191). -/
def State.takeAdmit (s : State) (mask : List Byte) : State :=
  if s.bridge.command.busy then s.recordResult 2 .busy s.bridge
  else if s.bridge.engine.volume == .discovering then s.recordResult 2 .refusedState s.bridge
  else if (s.bridge.admitted mask).isEmpty then
    { s with bridge := { s.bridge with command := s.bridge.command.ended 2 .ok } }
  else { s with bridge := (s.bridge.beginAdmit (s.bridge.admitted mask)).settle s.mgmt.settings }

/-- A command that ends at once without setting anything going: it is taken in every volume state (R188). -/
def State.plainCommand (s : State) (code : Nat) (act : Bridge → Bridge) : State :=
  if s.bridge.command.busy then s.recordResult code .busy s.bridge
  else { s with bridge := { act s.bridge with command := s.bridge.command.ended code .ok } }

/-- ACK clears the causes of its mask (R192). -/
def Bridge.ack (b : Bridge) (mask : BitVec 5) : Bridge := { b with causes := b.causes &&& ~~~mask }

/-- CLEAR CAPTURE (R40). -/
def Bridge.clearCapture (b : Bridge) : Bridge := { b with port := { b.port with capture := none, check := .clear } }

/-- The reset of the part (R163, R193, R196): every block in its reset state, and discovery begun. The frames of the same
event before it stay sent, and the model's queue of commands stands. -/
def State.restarted (s : State) : State :=
  { State.reset with
    bridge := { State.reset.bridge with sent := s.bridge.sent ++ State.reset.bridge.sent }
    pending := s.pending }

/-! The processing of a frame. -/

/-- A frame that passes or fails the tests of R181 is applied or discarded (R185, R187, R188 to R193, R183). -/
def State.applyFrame (s : State) (f : WriteFrame) : State :=
  match f.row with
  | .settings => s.onMgmt (fun m => { m with settings := m.settings.write f.index f.data })
  | .staged => s.onMgmt (fun m => { m with staged := m.staged.write f.index f.data })
  | .create => s.gatedCommand 1 (fun b => b.create s.mgmt.staged)
  | .admitMembers => s.takeAdmit (f.data.drop 1)
  | .start => s.gatedCommand 3 (fun b => b.start s.mgmt.staged)
  | .pause => s.gatedCommand 4 Bridge.pause
  | .resume => s.gatedCommand 5 Bridge.resume
  | .cancel => s.gatedCommand 6 Bridge.cancel
  | .ack => s.plainCommand 7 (fun b => b.ack ((f.data.getD 1 0).setWidth 5))
  | .clearCapture => s.plainCommand 8 Bridge.clearCapture
  | .restart => if s.bridge.command.busy then s.recordResult 9 .busy s.bridge else s.restarted
  | .discarded => s.onMgmt (fun m => { m with frameErrors := m.frameErrors + 1 })

/-- The oldest waiting frame is processed: its buffer is empty in the same event (R180). -/
def State.processOldest (s : State) : State :=
  match s.mgmt.waiting with
  | [] => s
  | f :: rest => (s.onMgmt (fun m => { m with waiting := rest })).applyFrame f

/-- The row of the oldest waiting frame. -/
def Management.oldestRow (m : Management) : Option FrameRow := m.waiting.head?.map WriteFrame.row

/-- The processing of the oldest waiting frame as one row: a frame of another row is not this step's, and nothing
changes (log entry 10). -/
def State.processAs (row : FrameRow) (s : State) : State :=
  s.lineEvent (fun s => if s.mgmt.oldestRow == some row then s.processOldest else s)

/-! Replies (R182). -/

/-- Every waiting frame is processed, oldest first; `count` is their number (R180). -/
def State.drain : Nat → State → State
  | 0, s => s
  | count + 1, s => drain count s.processOldest

/-- The reply to a read request, taken as the spaces stand (R182). -/
def State.reply (s : State) (control high low : Byte) : Reply :=
  { control := [control, high, low]
    data := s.spaceBytes (controlSpace control) (controlIndex high low) (controlLength control) }

/-- The bytes of a reply: its data and, when its check flag was set, its CRC (R182). -/
def Reply.bytes (r : Reply) : List Byte :=
  r.data ++ (if controlCheck (r.control.getD 0 0) then [crc8 (0x58 :: r.control ++ [0x59] ++ r.data)] else [])

/-- The bytes that the master clocks out of a reply: past its end they read 0xFF (R182). -/
def Reply.clocked (r : Reply) (n : Nat) : List Byte :=
  r.bytes.take n ++ List.replicate (n - r.bytes.length) 0xFF

/-- A transmit buffer is filled with the reply (R182), unless a RESTART among the frames processed in the same event has
dropped the read request (R196). That such an event leaves no reply is the model's choice, which the spec leaves open (log
entry 27). -/
def State.fillReply (s : State) (control high low : Byte) : State :=
  if s.mgmt.line == .readControl control then
    s.onMgmt (fun m => { m with line := .idle, replies := m.replies ++ [s.reply control high low] })
  else s

/-- The control word of a read request is complete: its bytes are acknowledged, the waiting frames are processed, and the
reply is taken (R180, R182). What a RESTART among these frames leaves is the model's choice (log entry 27). -/
def State.completeRequest (s : State) (control high low : Byte) : State :=
  let s := s.ackBytes true 2
  (s.drain s.mgmt.waiting.length).fillReply control high low

/-! The steps. -/

/-- RESET: the reset input or power-on (R163). -/
def execReset (s : State) : Host.Outcome State Fault Refusal := .next (s.lineEvent State.restarted)

/-- LINE_ADDRESS_BYTE: a start condition and its address byte (R179). The start ends a frame that is open on the line:
a reserved receive buffer is released, and a read request fills no buffer. -/
def execLineAddressByte (address : Byte) (s : State) : Host.Outcome State Fault Refusal :=
  .next (s.lineEvent (fun s =>
    let s := s.onMgmt (fun m => { m with line := .idle })
    if address == 0x58 && s.mgmt.hasRoom then (s.onMgmt (fun m => { m with line := .filling })).ackBytes true 1
    else if address == 0x59 && !s.mgmt.replies.isEmpty then s.ackBytes true 1
    else s.ackBytes false 1))

/-- What a write frame leaves at its stop (R179): nothing, a counted frame error, or a complete frame. -/
def State.endFrame (s : State) (bytes : List Byte) : State :=
  let s := s.onMgmt (fun m => { m with line := .idle })
  match bytes with
  | [] => s
  | c :: rest =>
      if !controlWrite c then s
      else if rest.length < 2 then
        (s.onMgmt (fun m => { m with frameErrors := m.frameErrors + 1 })).ackBytes true bytes.length
      else
        (s.onMgmt (fun m =>
          { m with waiting := m.waiting ++
              [{ bytes := bytes.take Config.bufferBytes, overlong := Config.bufferBytes < bytes.length }] })).ackBytes
            true bytes.length

/-- WRITE_FRAME: the bytes of a write frame after its address byte, and the stop or repeated start that ends it (R179).
Without an acknowledged address byte the part takes none of them. -/
def execWriteFrame (bytes : List Byte) (s : State) : Host.Outcome State Fault Refusal :=
  .next (s.lineEvent (fun s =>
    if s.mgmt.line == .filling then s.endFrame bytes else s.ackBytes false bytes.length))

/-- READ_REQUEST_CONTROL_BYTE: the first control byte of a read request (R179, R182): the reserved receive buffer is
released, and the byte is acknowledged only if a transmit buffer is empty. -/
def execReadRequestControlByte (control : Byte) (s : State) : Host.Outcome State Fault Refusal :=
  .next (s.lineEvent (fun s =>
    if s.mgmt.line == .filling && !controlWrite control then
      if s.mgmt.replies.length < Config.transmitBuffers then
        (s.onMgmt (fun m => { m with line := .readControl control })).ackBytes true 1
      else (s.onMgmt (fun m => { m with line := .idle })).ackBytes false 1
    else s.ackBytes false 1))

/-- READ_REQUEST: the second and third control bytes of a read request (R182). -/
def execReadRequest (high low : Byte) (s : State) : Host.Outcome State Fault Refusal :=
  .next (s.lineEvent (fun s =>
    match s.mgmt.line with
    | .readControl control => s.completeRequest control high low
    | .idle => s.ackBytes false 2
    | .filling => s.ackBytes false 2))

/-- The oldest reply is sent as far as the master clocks it, and consumed (R182). -/
def State.fetchReply (s : State) (clocked : Nat) : State :=
  match s.mgmt.replies with
  | [] => s.ackBytes false 1
  | r :: rest =>
      let s := (s.onMgmt (fun m => { m with replies := rest })).ackBytes true 1
      { s with bridge := s.bridge.send (.lineBytes (r.clocked clocked)) }

/-- REPLY_FETCH: address byte 0x59 and the bytes the master clocks until it ends the fetch (R182). Its start ends a frame
that is open on the line. -/
def execReplyFetch (clocked : Nat) (s : State) : Host.Outcome State Fault Refusal :=
  .next (s.lineEvent (fun s => (s.onMgmt (fun m => { m with line := .idle })).fetchReply clocked))

/-- SETTINGS_WRITE: a frame to space 0 is processed (R185). -/
def execSettingsWrite (s : State) : Host.Outcome State Fault Refusal := .next (s.processAs .settings)

/-- STAGED_DESCRIPTOR_WRITE: a frame to space 3 is processed (R187). -/
def execStagedDescriptorWrite (s : State) : Host.Outcome State Fault Refusal := .next (s.processAs .staged)

/-- CREATE is processed (R85, R189). -/
def execCreate (s : State) : Host.Outcome State Fault Refusal := .next (s.processAs .create)

/-- ADMIT is processed (R149, R191). -/
def execAdmitMembers (s : State) : Host.Outcome State Fault Refusal := .next (s.processAs .admitMembers)

/-- START is processed (R86, R190). -/
def execStart (s : State) : Host.Outcome State Fault Refusal := .next (s.processAs .start)

/-- PAUSE is processed (R88, R191). -/
def execPause (s : State) : Host.Outcome State Fault Refusal := .next (s.processAs .pause)

/-- RESUME is processed (R90, R191). -/
def execResume (s : State) : Host.Outcome State Fault Refusal := .next (s.processAs .resume)

/-- CANCEL is processed (R91, R191). -/
def execCancel (s : State) : Host.Outcome State Fault Refusal := .next (s.processAs .cancel)

/-- ACK is processed (R192). -/
def execAck (s : State) : Host.Outcome State Fault Refusal := .next (s.processAs .ack)

/-- CLEAR CAPTURE is processed (R40, R192). -/
def execClearCapture (s : State) : Host.Outcome State Fault Refusal := .next (s.processAs .clearCapture)

/-- RESTART is processed (R193). -/
def execRestart (s : State) : Host.Outcome State Fault Refusal := .next (s.processAs .restart)

/-- A frame that fails a test of R181 is discarded and counted (R181, R183). -/
def execDiscardedWriteFrame (s : State) : Host.Outcome State Fault Refusal := .next (s.processAs .discarded)

end Sys2Proof.Machine
end

