-- ==== Sys2Proof/Machine/ShelfLink.lean ====
section
/-! DEFINITION. The steps of the shelf links and their timers: DRIVE_COMPLETION, COMMAND_TIMER_EXPIRY and
STARVATION_TIMER_RUN_OUT (chapters 7 and 8). -/

namespace Sys2Proof.Machine

open Sys2Proof

/-- DRIVE_COMPLETION: an answer on a shelf link is taken or discarded (R134), and a taken answer's outcome goes to the
member table and to the issuer (R141). -/
def execDriveCompletion (port : Fin 6) (tag slot status : Byte) (body : Body) (s : State) :
    Host.Outcome State Fault Refusal :=
  .next (s.onBridge (fun b => b.driveAnswer s.mgmt.settings port tag slot status body))

/-- COMMAND_TIMER_EXPIRY: the timer of a tag's command expires (R139). A tag with no command outstanding has no timer,
and nothing changes. -/
def execCommandTimerExpiry (port : Fin 6) (tag : Fin 64) (s : State) : Host.Outcome State Fault Refusal :=
  .next (s.onBridge (fun b => b.timerExpires s.mgmt.settings port tag))

/-- The starvation timer of a port has run for starve_limit; a stopped timer does not run (R156). -/
def ShelfPort.starvationRunsOut (cfg : Settings) (p : ShelfPort) : ShelfPort :=
  { p with starvation := p.starvation.map (fun elapsed => max elapsed cfg.starveLimit) }

/-- STARVATION_TIMER_RUN_OUT: the timer has run for starve_limit. Nothing changes until the next grant reads it
(R156, R158). -/
def execStarvationTimerRunOut (port : Fin 6) (s : State) : Host.Outcome State Fault Refusal :=
  .next (s.onBridge (fun b => b.onShelf port (fun p => p.starvationRunsOut s.mgmt.settings)))

end Sys2Proof.Machine
end

