-- ==== Sys2Proof/Machine/Dispatch.lean ====
section
/-! DEFINITION. The effect of each command on everything but the queue: one arm per row of the opcode table. -/

namespace Sys2Proof.Machine

open Sys2Proof

/-- A command's effect on everything but the queue of commands that wait. -/
def exec (i : Instr) (s : State) : Host.Outcome State Fault Refusal :=
  match i with
  | .reset => Sys2Proof.Machine.execReset s
  | .read h extra => Sys2Proof.Machine.execRead h extra s
  | .write h payload => Sys2Proof.Machine.execWrite h payload s
  | .flush h extra => Sys2Proof.Machine.execFlush h extra s
  | .capacity h extra => Sys2Proof.Machine.execCapacity h extra s
  | .unknownKind kind h extra => Sys2Proof.Machine.execUnknownKind kind h extra s
  | .driveCompletion port tag slot status body => Sys2Proof.Machine.execDriveCompletion port tag slot status body s
  | .commandTimerExpiry port tag => Sys2Proof.Machine.execCommandTimerExpiry port tag s
  | .starvationTimerRunOut port => Sys2Proof.Machine.execStarvationTimerRunOut port s
  | .writeFrame bytes => Sys2Proof.Machine.execWriteFrame bytes s
  | .readRequest indexHigh indexLow => Sys2Proof.Machine.execReadRequest indexHigh indexLow s
  | .replyFetch clocked => Sys2Proof.Machine.execReplyFetch clocked s
  | .settingsWrite => Sys2Proof.Machine.execSettingsWrite s
  | .stagedDescriptorWrite => Sys2Proof.Machine.execStagedDescriptorWrite s
  | .create => Sys2Proof.Machine.execCreate s
  | .admitMembers => Sys2Proof.Machine.execAdmitMembers s
  | .start => Sys2Proof.Machine.execStart s
  | .pause => Sys2Proof.Machine.execPause s
  | .resume => Sys2Proof.Machine.execResume s
  | .cancel => Sys2Proof.Machine.execCancel s
  | .ack => Sys2Proof.Machine.execAck s
  | .clearCapture => Sys2Proof.Machine.execClearCapture s
  | .restart => Sys2Proof.Machine.execRestart s
  | .discardedWriteFrame => Sys2Proof.Machine.execDiscardedWriteFrame s
  | .lineAddressByte address => Sys2Proof.Machine.execLineAddressByte address s
  | .readRequestControlByte control => Sys2Proof.Machine.execReadRequestControlByte control s

end Sys2Proof.Machine
end

