-- ==== Sys2Proof/Safety.lean ====
section
/-! DEFINITION. What holds of the part in every state that a run reaches, and the words in which the statements speak of
frames, ports and commands. -/

namespace Sys2Proof.Machine

open Sys2Proof

/-- Every setting lies in its range, and yield_exit below yield_enter (R185, R154). -/
def Settings.inRange (c : Settings) : Bool :=
  1 ≤ c.cmdTimeout && c.cmdTimeout ≤ 255 && c.retryLimit ≤ 7 && 1 ≤ c.mediaLimit && c.mediaLimit ≤ 255
    && 1 ≤ c.yieldEnter && c.yieldEnter ≤ 128 && c.yieldExit < c.yieldEnter && 1 ≤ c.weight && c.weight ≤ 16
    && 1 ≤ c.starveLimit && c.starveLimit ≤ 1000 && 1 ≤ c.cpInterval && c.cpInterval ≤ 4096

/-- The receive buffers in use: the complete frames, and the one that is filling (R179). -/
def Management.receiveInUse (m : Management) : Nat := m.waiting.length + (if m.line == .filling then 1 else 0)

/-- The transmit buffers in use: the unconsumed replies, and the one that a read request being taken will fill
(R182). -/
def Management.transmitInUse (m : Management) : Nat :=
  m.replies.length + (match m.line with
    | .readControl _ => 1
    | .idle => 0
    | .filling => 0)

/-- The management controller is sound: its buffers suffice, its settings are in range, and a stored frame or the staged
descriptor has no more bytes than its place. -/
def Management.sound (m : Management) : Bool :=
  m.receiveInUse ≤ Config.receiveBuffers && m.transmitInUse ≤ Config.transmitBuffers && m.settings.inRange
    && m.waiting.all (fun f => 3 ≤ f.bytes.length && f.bytes.length ≤ Config.bufferBytes)
    && m.staged.members.length == 24

/-- The alert line follows the enabled causes (R195). -/
def State.alertRight (s : State) : Prop :=
  s.alertLine = alertActive s.mgmt.settings.alertEnable s.bridge.causes

/-- The request table is sound: F is the number of its READ and WRITE entries (R41), no tag stands twice, and every tag
is one of 0 to 127 (R23, R27). -/
def ArrayPort.sound (p : ArrayPort) : Prop :=
  p.foreground = foregroundCount p.table ∧ (p.table.map Request.tag).Nodup
    ∧ ∀ r ∈ p.table, r.tag < Config.requestTags

/-- The part has its six shelf ports and its 96 member table entries (00_scope, R143). -/
def Bridge.shaped (b : Bridge) : Prop :=
  b.shelves.length = Config.shelfPorts ∧ b.members.length = Config.memberCount

/-- The management line, the alert line and the request table are sound, and the part has its ports and members. -/
def State.sound (s : State) : Prop :=
  s.mgmt.sound = true ∧ s.alertRight ∧ s.bridge.port.sound ∧ s.bridge.shaped

/-- The kind byte and header of a command of the array link. -/
def arrayFrame? : Instr → Option (Byte × Header)
  | .read h _ => some (0x01, h)
  | .write h _ => some (0x02, h)
  | .flush h _ => some (0x03, h)
  | .capacity h _ => some (0x04, h)
  | .unknownKind kind h _ => some (kind, h)
  | .reset | .driveCompletion _ _ _ _ _ | .commandTimerExpiry _ _ | .starvationTimerRunOut _ | .writeFrame _
  | .readRequest _ _ | .replyFetch _ | .settingsWrite | .stagedDescriptorWrite | .create | .admitMembers | .start
  | .pause | .resume | .cancel | .ack | .clearCapture | .restart | .discardedWriteFrame | .lineAddressByte _
  | .readRequestControlByte _ => none

/-- The header of a READ or WRITE and whether its payload has the right length (R24). -/
def blockRequest? : Instr → Option (Header × Bool)
  | .read h _ => some (h, true)
  | .write h payload => some (h, payloadFits h payload)
  | _ => none

/-- The header check passes, discovery is over, and the tag is valid and free: the frame reaches step 5 of R21. -/
def State.pastEarlyTests (s : State) (kind : Byte) (h : Header) : Bool :=
  !checkFails s.mgmt.settings kind h && s.bridge.engine.volume != .discovering && h.tag.toNat < Config.requestTags
    && !s.bridge.port.outstanding h.tag.toNat

/-- A state whose management line and queue are those of another, with a given bridge, its alert line following
(R195): what an event that acts on the bridge alone leaves. -/
def State.withBridge (s : State) (b : Bridge) : State :=
  { s with bridge := b, alertLine := alertActive s.mgmt.settings.alertEnable b.causes }

/-- The state that the processing of the oldest waiting frame leaves when it acts on the bridge: the frame's buffer is
empty, and the frames behind it wait (R180). -/
def State.afterFrame (s : State) (rest : List WriteFrame) (b : Bridge) : State :=
  { s with
    mgmt := { s.mgmt with waiting := rest }, bridge := b
    alertLine := alertActive s.mgmt.settings.alertEnable b.causes }

/-- The bridge with a command recorded as ended (R188). -/
def Bridge.recorded (b : Bridge) (code : Nat) (result : CommandResult) : Bridge :=
  { b with command :=
      { state := b.command.state, code := code, result := result, sequence := b.command.sequence + 1 } }

/-- Every class queue has at most the commands it has room for (7.2). -/
def Bridge.queuesFit (b : Bridge) : Prop :=
  ∀ p ∈ b.shelves, p.foreground.length ≤ Config.foregroundRoom ∧ p.migration.length ≤ Config.migrationRoom

/-- The keys of the row lock table are distinct, and it holds at most 64 entries (R114). -/
def ParityUnit.locksSound (p : ParityUnit) : Prop :=
  (p.locks.map (fun e => (e.layout, e.row))).Nodup ∧ p.locks.length ≤ Config.lockEntries

end Sys2Proof.Machine
end

