-- ==== Sys2Proof/Certificates/Slice0/Obligations.lean ====
section
/-! DEFINITION. The statements about the bridge, each from the rules of the spec that its docstring names. -/

open Sys2Proof Sys2Proof.Machine

/-! The queue and the reset. -/

/-- A step takes the command at the front of the queue and is its effect with the queue's rest; on an empty queue the part
idles (log entry 1: the queue and the idle step are the model's own). -/
def Obligations.StepTakesFrontCommand : Prop :=
  (∀ (c : Instr) (s : State), step { s with pending := c :: s.pending } = exec c s)
    ∧ ∀ s : State, s.pending = [] → step s = .next s

/-- What the reset leaves in each block (R43, R67, R95, R101, R132, R143, R162, R173, R185, R196). -/
def Obligations.ResetState : Prop :=
  let b := State.reset.bridge
  b.port.table = [] ∧ b.port.freePieces = 512 ∧ b.port.gathers = [] ∧ b.port.arrivals = 0 ∧ b.port.capture = none
    ∧ b.port.check = .clear ∧ b.port.captures = 0 ∧ b.port.foreground = 0
    ∧ b.router.hold = [] ∧ b.router.parkWait = [] ∧ b.router.inCurrent = [] ∧ b.router.gate = none
    ∧ b.engine.volume = .discovering ∧ b.engine.state = .idle ∧ b.engine.hold = none ∧ b.engine.cancel = false
    ∧ b.engine.current = none ∧ b.engine.target = none ∧ b.engine.doneMark = 0 ∧ b.engine.checkMark = 0
    ∧ b.engine.generation = 0 ∧ b.engine.checkpoint = none ∧ b.engine.durable = none ∧ b.engine.stageLoss = none
    ∧ (∀ i, (b.engine.slot i).state = .free ∧ (b.engine.slot i).gathers = 0 ∧ (b.engine.slot i).pending = 0
        ∧ (b.engine.slot i).parity = none)
    ∧ b.engine.visibleCapacity = 0
    ∧ b.parity.locks = [] ∧ b.parity.allocation = [] ∧ b.parity.healthCurrent = .absent ∧ b.parity.healthTarget = .absent
    ∧ b.shelves.length = 6
    ∧ (∀ p ∈ b.shelves, p.foreground = [] ∧ p.migration = [] ∧ p.grants = 0 ∧ p.starvation = none)
    ∧ b.foregroundWait = [] ∧ b.migrationWait = [] ∧ b.pacing = .normal
    ∧ b.members = List.replicate 96
        { state := .empty, capacity := 0, currentColumn := none, targetColumn := none, media := 0, best := none }
    ∧ b.causes = 0 ∧ State.reset.alertLine = false
    ∧ b.command = { state := .idle, code := 0, result := .blank, sequence := 0 }
    ∧ State.reset.mgmt.waiting = [] ∧ State.reset.mgmt.replies = [] ∧ State.reset.mgmt.line = .idle
    ∧ State.reset.mgmt.frameErrors = 0
    ∧ State.reset.mgmt.staged = { columns := 0, chunk := 0, members := List.replicate 24 0 }
    ∧ State.reset.mgmt.settings =
        { checkEnable := true, checkMode := .strict, cmdTimeout := 30, retryLimit := 2, mediaLimit := 16
          yieldEnter := 48, yieldExit := 16, weight := 4, starveLimit := 100, cpInterval := 256, alertEnable := 0x1F }

/-- The event of the reset is the blocks' reset state followed by one DPROBE step for each member number 0 to 95, in
ascending order, in the migration class, and the grants they allow under the default settings (R163, R135). RESET takes
the reset from every state, and a RESTART that no ADMIT holds off is taken the same way (R163, R193, R196). The model's
queue stands. -/
def Obligations.ResetAndRestart : Prop :=
  ((List.range 96).foldl
      (fun b m => b.issueStep .migration
        [{ kind := .dprobe, member := m, block := 0, count := 0, payload := [], issuer := .discoveryProbe }])
      Bridge.blocksReset).settle Settings.reset = State.reset.bridge
    ∧ (∀ s : State, exec .reset s = .next { State.reset with pending := s.pending })
    ∧ ∀ (s : State) (f : WriteFrame) (rest : List WriteFrame),
        s.mgmt.waiting = f :: rest → f.row = .restart → s.bridge.command.state = .idle →
          exec .restart s = .next { State.reset with pending := s.pending }

/-! Geometry (chapter 1). -/

/-- The placement of R7: the row and data position of a chunk, the parity column of a row, the data column of a data position
and the member block, and the place of some blocks of a chunk in a layout; the data position of a column, and the
reversal of the placement by R8. -/
def Obligations.PlacementInverts : Prop :=
  (∀ n c d r p column o : Nat,
      rowOf n d = d / (n - 1) ∧ positionOf n d = d % (n - 1) ∧ parityColumn n r = r % n
        ∧ dataColumn n r p = (r % n + 1 + p) % n ∧ memberBlock c r o = 1024 + r * c + o
        ∧ positionOfColumn n r column = (column + n - r % n - 1) % n)
    ∧ (∀ (layout : Layout) (desc : Descriptor) (d o count : Nat),
        let n := desc.members.length
        placeOf layout desc d o count =
          { layout := layout, row := d / (n - 1), column := (d / (n - 1) % n + 1 + d % (n - 1)) % n, offset := o
            count := count })
    ∧ ∀ n c d o : Nat, 3 ≤ n → 1 ≤ c → o < c →
    positionOf n d < n - 1
      ∧ dataColumn n (rowOf n d) (positionOf n d) < n
      ∧ dataColumn n (rowOf n d) (positionOf n d) ≠ parityColumn n (rowOf n d)
      ∧ positionOfColumn n (rowOf n d) (dataColumn n (rowOf n d) (positionOf n d)) = positionOf n d
      ∧ rowOf n d * (n - 1) + positionOf n d = d
      ∧ rowOfBlock c (memberBlock c (rowOf n d) o) = rowOf n d
      ∧ offsetOfBlock c (memberBlock c (rowOf n d) o) = o
      ∧ chunkOf c (d * c + o) = d ∧ offsetOf c (d * c + o) = o

/-- A request is split at every chunk boundary: its pieces follow one another from its LBA, each lies in its own chunk, and
their counts sum to its count (R11). -/
def Obligations.SplitCoversRequest : Prop :=
  ∀ (c lba count : Nat) (dir : Direction), 1 ≤ c → 1 ≤ count →
    let pieces := splitRequest c dir lba count
    pieces.length = (lba + count - 1) / c - lba / c + 1
      ∧ (pieces.map Piece.count).sum = count
      ∧ pieces.head?.map Piece.lba = some lba
      ∧ (∀ j p, pieces[j]? = some p →
          p.index = j ∧ p.chunk = lba / c + j ∧ p.direction = dir ∧ p.state = .waiting ∧ 1 ≤ p.count ∧ p.count ≤ c
            ∧ p.chunk * c ≤ p.lba ∧ p.lba + p.count ≤ (p.chunk + 1) * c)
      ∧ ∀ j p q, pieces[j]? = some p → pieces[j + 1]? = some q → q.lba = p.lba + p.count

/-- The lowest and highest target rows that hold the chunks of a current row, and their properties (R18). -/
def Obligations.CurrentRowInTargetRows : Prop :=
  ∀ n n' k : Nat, 3 ≤ n → n < n' →
    lowestTargetRow n n' k = k * (n - 1) / (n' - 1)
      ∧ highestTargetRow n n' k = ((k + 1) * (n - 1) - 1) / (n' - 1)
      ∧ lowestTargetRow n n' k ≤ highestTargetRow n n' k ∧ highestTargetRow n n' k ≤ k
      ∧ highestTargetRow n n' k - lowestTargetRow n n' k ≤ 1
      ∧ (∀ j, k ≤ j → lowestTargetRow n n' k ≤ lowestTargetRow n n' j ∧ highestTargetRow n n' k ≤ highestTargetRow n n' j)
      ∧ (∀ d, rowOf n d = k → lowestTargetRow n n' k ≤ rowOf n' d ∧ rowOf n' d ≤ highestTargetRow n n' k)
      ∧ (∃ d, rowOf n d = k ∧ rowOf n' d = lowestTargetRow n n' k)
      ∧ ∃ d, rowOf n d = k ∧ rowOf n' d = highestTargetRow n n' k

/-- Which rows are critical (R19), the greatest critical row kx of each pair of layouts, and the guard threshold of a
row, which is t_hi(k) + 1, is at most k for a row that is not critical, and does not decrease with the row (R20). The
guard of a row is met when CM is at least its threshold, and without a target layout always. -/
def Obligations.CriticalRowsAndThresholds : Prop :=
  (∀ n n' k : Nat, 3 ≤ n → n < n' →
    (criticalRow n n' k = true ↔ highestTargetRow n n' k = k)
      ∧ (criticalRow n n' k = true ↔ k * (n' - 1) ≤ (k + 1) * (n - 1) - 1)
      ∧ (criticalRow n n' k = true ↔ k * (n' - n) ≤ n - 2)
      ∧ (∀ rows, k < rows → (criticalRow n n' k = true ↔ k ≤ min ((n - 2) / (n' - n)) (rows - 1)))
      ∧ criticalRow n n' 0 = true
      ∧ (criticalRow n n' k = true → lowestTargetRow n n' k = k - 1 ∨ lowestTargetRow n n' k = k)
      ∧ guardThreshold n n' k = highestTargetRow n n' k + 1
      ∧ (criticalRow n n' k = false → highestTargetRow n n' k ≤ k - 1 ∧ guardThreshold n n' k ≤ k)
      ∧ (∀ j, j ≤ k → guardThreshold n n' j ≤ guardThreshold n n' k)
      ∧ ∀ j mark, j ≤ k → guardThreshold n n' k ≤ mark → guardThreshold n n' j ≤ mark)
    ∧ (∀ (e : Engine) (c t : Descriptor) (k : Nat), e.current = some c → e.target = some t →
        (e.guardMet k = true ↔ highestTargetRow c.members.length t.members.length k + 1 ≤ e.checkMark))
    ∧ (∀ (e : Engine) (k : Nat), e.target = none → e.guardMet k = true)
    ∧ (∀ n n', 3 ≤ n → n < n' → n' ≤ 24 → (n - 2) / (n' - n) ≤ 21) ∧ (23 - 2) / (24 - 23) = 21

/-! Parity (R16, R17). -/

/-- The three relations of R17: new parity is old parity XOR old data XOR new data; a missing run is the XOR of the others,
parity included; and for a missing data column new parity is new data XOR the other data columns. The new parity that a
write step lays down is the first of them over the results of READ_OLD, and the third over those of READ_PEERS; these
results stand only when every read of their step ended DGOOD, and the new data is the piece's part of its request's
buffer (R52, R123, R125). -/
def Obligations.ParityRelations : Prop :=
  (∀ (n : Nat) (old new : List Block) (others : List (List Block)),
      old.length = n → new.length = n → (∀ r ∈ others, r.length = n) →
        xorBlocks (xorBlocks (xorAll n (old :: others)) old) new = xorAll n (new :: others))
    ∧ (∀ (n : Nat) (runs : List (List Block)) (i : Nat) (missing : List Block),
        (∀ r ∈ runs, r.length = n) → runs[i]? = some missing →
          xorAll n (xorAll n runs :: runs.eraseIdx i) = missing)
    ∧ (∀ (n : Nat) (new : List Block) (others : List (List Block)), new.length = n → (∀ r ∈ others, r.length = n) →
        xorBlocks new (xorAll n others) = xorAll n (new :: others))
    ∧ (∀ (b : Bridge) (s : Service),
        (∀ data parity, s.kept = .old data parity →
            b.newParity s = xorBlocks (xorBlocks parity data) (b.newData s))
          ∧ (∀ sum, s.kept = .peers sum → b.newParity s = xorBlocks (b.newData s) sum)
          ∧ ∀ (tag index : Nat) (r : Request) (p : Piece), s.work = .piece tag index → b.port.request? tag = some r →
              b.piece? tag index = some p → b.newData s = (r.buffer.drop (p.lba - r.lba)).take p.count)
    ∧ ∀ s : Service,
        (∀ data parity, s.ended .own = some (.good data) → s.ended .parity = some (.good parity) →
            s.afterReadOld = { s with unreadable := false, kept := .old data parity })
          ∧ ((∀ data, s.ended .own ≠ some (.good data)) ∨ (∀ parity, s.ended .parity ≠ some (.good parity)) →
              s.afterReadOld.kept = .nothing
                ∧ (s.afterReadOld.unreadable = true ↔
                    s.unreadable = true ∨ s.ended .own = some .media ∨ s.ended .parity = some .media))
          ∧ (∀ runs : List (List Block), s.results.map Prod.snd = runs.map Ending.good →
              s.afterReadPeers = { s with kept := .peers (xorAll s.place.count runs) })
          ∧ ((∃ x ∈ s.results, ∀ blocks, x.2 ≠ .good blocks) → s.afterReadPeers = { s with kept := .nothing })

/-! Check bytes and the layout record. -/

/-- The CRC of the single byte 0x01 (R22), the worked CRC-8 of a FLUSH header byte by byte (11.5), and that the 1024 words
of a block with its check word written sum to 0 modulo 2^32 (R97). -/
def Obligations.CheckBytesRight : Prop :=
  crc8 [0x01] = 0x07
    ∧ (List.range 15).map (fun i => crc8 ((0x03 :: List.replicate 14 0).take (i + 1)))
        = [0x09, 0x3F, 0xBD, 0x3A, 0xA6, 0x7B, 0x66, 0x35, 0x8B, 0xB8, 0x21, 0xE7, 0xBB, 0x28, 0xD8]
    ∧ ∀ b : Block, wordAt b 1023 = 0 →
        sumWords (b ||| ((checkWord b).setWidth 32768 <<< (32 * 1023))) 1024 = 0

/-- The part reads back every valid record it can write: the block of a record with a generation other than 0 and a state
that a record may declare holds exactly that record (R96, R97, R199). -/
def Obligations.RecordRoundTrip : Prop :=
  ∀ r : Record, r.valid = true → r.generation ≠ 0 →
    (r.volume = .initializing ∨ r.volume = .stable ∨ r.volume = .expanding) → readRecord r.block = some r

/-! The array link (chapter 2). -/

/-- A frame discarded at step 1 or step 4 of R21 makes a capture: the record, the count, the alert cause and the fence as
R38 and R39 give, no completion, and nothing else (R22, R23). The 16 header bytes are the kind, the tag, the count in two
bytes, the LBA in six, the five carried bytes and the check byte, each number least significant byte first (R197). -/
def Obligations.DiscardedFrameCaptured : Prop :=
  (∀ (kind : Byte) (h : Header),
    headerBytes kind h =
      [kind, h.tag] ++ (List.range 2).map (fun i => h.count.extractLsb' (8 * i) 8)
        ++ (List.range 6).map (fun i => h.lba.extractLsb' (8 * i) 8)
        ++ (List.range 5).map (fun i => h.carried.extractLsb' (8 * i) 8) ++ [h.check])
  ∧ ∀ (i : Instr) (kind : Byte) (h : Header) (s : State) (cause : CaptureCause),
    arrayFrame? i = some (kind, h) →
    (cause = .check ∧ s.mgmt.settings.checkEnable = true ∧ crc8 ((headerBytes kind h).take 15) ≠ h.check
      ∨ cause = .dupTag ∧ (s.mgmt.settings.checkEnable = true → crc8 ((headerBytes kind h).take 15) = h.check)
          ∧ s.bridge.engine.volume ≠ .discovering ∧ h.tag.toNat < 128 ∧ ∃ r ∈ s.bridge.port.table, r.tag = h.tag.toNat) →
      exec i s = .next (s.withBridge
        { s.bridge with
          port :=
            { s.bridge.port with
              capture := some (match s.bridge.port.capture with
                | none =>
                    { cause := cause, header := headerBytes kind h
                      computed := crc8 ((headerBytes kind h).take 15), overrun := false }
                | some c => { c with overrun := true })
              captures := s.bridge.port.captures + 1
              check := match s.mgmt.settings.checkMode with
                | .strict => .fenced
                | .persistent => s.bridge.port.check }
          causes := s.bridge.causes ||| 0x01
          sent := [] })

/-- A frame that passes the header check is answered BUSY during discovery (R42), a tag outside 0 to 127 completes INVALID at
step 3, and an unknown kind at step 5; nothing else changes (R21, R23, R24, R25). -/
def Obligations.FrameAnsweredBusyOrInvalid : Prop :=
  (∀ (i : Instr) (kind : Byte) (h : Header) (s : State),
      arrayFrame? i = some (kind, h) → checkFails s.mgmt.settings kind h = false →
        (s.bridge.engine.volume = .discovering →
          exec i s = .next (s.withBridge { s.bridge with sent := [.arrayFrame [h.tag, 0x01] []] }))
        ∧ (s.bridge.engine.volume ≠ .discovering → 128 ≤ h.tag.toNat →
          exec i s = .next (s.withBridge { s.bridge with sent := [.arrayFrame [h.tag, 0x03] []] })))
    ∧ ∀ (kind : Byte) (h : Header) (extra : Body) (s : State), s.pastEarlyTests kind h = true →
        exec (.unknownKind kind h extra) s =
          .next (s.withBridge { s.bridge with sent := [.arrayFrame [h.tag, 0x03] []] })

/-- CAPACITY completes GOOD at step 6 with the 18 bytes of the reply, whatever the check state, and nothing else changes
(R26, R197, R25). -/
def Obligations.CapacityReplied : Prop :=
  ∀ (h : Header) (extra : Body) (s : State), s.pastEarlyTests 0x04 h = true →
    let e := s.bridge.engine
    let capacity := match e.volume, e.current with
      | .stable, some d => d.rows * (d.members.length - 1) * d.chunk
      | .expanding, some d => d.rows * (d.members.length - 1) * d.chunk
      | _, _ => 0
    exec (.capacity h extra) s = .next (s.withBridge { s.bridge with sent :=
      [.arrayFrame ([h.tag, 0x00] ++ leBytes 6 capacity ++ leBytes 8 e.generation.toNat
          ++ leBytes 1 e.volume.code
          ++ leBytes 1 ((e.current.map Descriptor.chunk).getD 0)
          ++ leBytes 1 ((e.current.map (fun d => d.members.length - 1)).getD 0)
          ++ [if e.volume = .expanding then 1 else 0]) []] })

/-- A READ or WRITE that steps 7 to 12 of R21 decide is answered with the status of the first that does, and nothing else
changes: FENCED for a WRITE while fenced, INVALID for its count, INVALID for a WRITE's payload length, RANGE, BUSY for
lack of pieces (R10, R24, R25, R29, R39). The pieces free are the 512 of the pool less those of the entries in the table
(R29), and the visible capacity is R × (N − 1) × C of the current descriptor in STABLE and EXPANDING, and 0 else (R68). -/
def Obligations.BlockRequestRefused : Prop :=
  ∀ (i : Instr) (kind : Byte) (h : Header) (fits : Bool) (s : State) (status : Byte),
    arrayFrame? i = some (kind, h) → blockRequest? i = some (h, fits) → s.pastEarlyTests kind h = true →
    let fenced : Prop := kind = 0x02 ∧ s.bridge.port.check = .fenced
    let badCount : Prop := h.count.toNat = 0 ∨ 256 < h.count.toNat
    let e := s.bridge.engine
    let visible : Nat := if e.volume = .stable ∨ e.volume = .expanding then
        (e.current.map (fun d => d.rows * (d.members.length - 1) * d.chunk)).getD 0 else 0
    let free : Nat := 512 - (s.bridge.port.table.map (fun r => r.pieces.length)).sum
    let outside : Prop := visible < h.lba.toNat + h.count.toNat
    let short : Prop := free < pieceCount s.bridge.engine.chunk h.lba.toNat h.count.toNat
    (fenced ∧ status = 0x05
      ∨ ¬fenced ∧ badCount ∧ status = 0x03
      ∨ ¬fenced ∧ ¬badCount ∧ fits = false ∧ status = 0x03
      ∨ ¬fenced ∧ ¬badCount ∧ fits = true ∧ outside ∧ status = 0x02
      ∨ ¬fenced ∧ ¬badCount ∧ fits = true ∧ ¬outside ∧ short ∧ status = 0x01) →
      exec i s = .next (s.withBridge { s.bridge with sent := [.arrayFrame [h.tag, status] []] })

/-- An accepted READ or WRITE: its entry takes the current arrival number, its pieces, and a return buffer or its payload;
the counter advances, F is the number of READ and WRITE entries, the pacing mode is tested, and what follows in the event
is the rest of the event on that state. A WRITE is accepted with the port OPEN (R27, R39, R41, R153). The pieces free are
the 512 of the pool less those of the entries in the table (R29), and the visible capacity is R × (N − 1) × C of the
current descriptor in STABLE and EXPANDING, and 0 else (R68). That the return
buffer holds zero blocks until its pieces end is the model's choice, no rule of the spec (log entry 7). -/
def Obligations.BlockRequestAccepted : Prop :=
  ∀ (h : Header) (payload : Body) (s : State), 1 ≤ h.count.toNat → h.count.toNat ≤ 256 →
    let e := s.bridge.engine
    let visible : Nat := if e.volume = .stable ∨ e.volume = .expanding then
        (e.current.map (fun d => d.rows * (d.members.length - 1) * d.chunk)).getD 0 else 0
    let free : Nat := 512 - (s.bridge.port.table.map (fun r => r.pieces.length)).sum
    h.lba.toNat + h.count.toNat ≤ visible →
    pieceCount s.bridge.engine.chunk h.lba.toNat h.count.toNat ≤ free →
      let entry : RequestKind → Direction → List Block → Request := fun kind dir buffer =>
        { tag := h.tag.toNat, kind := kind, lba := h.lba.toNat, count := h.count.toNat
          arrival := s.bridge.port.arrivals
          pieces := splitRequest s.bridge.engine.chunk dir h.lba.toNat h.count.toNat
          status := .good, buffer := buffer }
      let f := foregroundCount s.bridge.port.table + 1
      let accepted : Request → State := fun r => s.withBridge (Bridge.settle s.mgmt.settings
        { s.bridge with
          port :=
            { s.bridge.port with
              table := s.bridge.port.table ++ [r], arrivals := s.bridge.port.arrivals + 1, foreground := f }
          pacing := pacingAfter s.mgmt.settings s.bridge.pacing f
          sent := [] })
      (s.pastEarlyTests 0x01 h = true →
          exec (.read h payload) s = .next (accepted (entry .read .read (List.replicate h.count.toNat 0))))
        ∧ (s.pastEarlyTests 0x02 h = true → s.bridge.port.check = .clear →
          payload.blocks.length = h.count.toNat → payload.tail = [] →
          exec (.write h payload) s = .next (accepted (entry .write .write payload.blocks)))

/-- A FLUSH that finds the table empty completes GOOD in the event of its acceptance; one that finds an
earlier request joins the table and nothing is sent, the FLUSH entries there still having earlier requests to wait for. It
takes an arrival number in both cases and is accepted in every check state (R27, R37). The end of a piece of a READ or
WRITE (R34, R35, R128): the piece is DONE with its outcome, a read piece's blocks stand in the return buffer at its place,
and LOST is kept; with a piece not DONE the request stays and nothing is sent; with the last one its completion frame is
sent, a READ that is GOOD with its return buffer, its entry leaves the table, F and the pacing mode follow, and
only completions of FLUSH entries come after it: in a table that stands in arrival order, those of the FLUSH entries
that no READ or WRITE is left before, which leave the table with it, in order, while every other FLUSH stays. Then the
piece leaves the current-layout set and its slot's pending count falls, a closed write-out gate is tested (R55, R63, R64),
and last the piece's service ends, with the release of its lock (R117). -/
def Obligations.RequestsCompleteOrWait : Prop :=
  (∀ (h : Header) (extra : Body) (s : State), s.pastEarlyTests 0x03 h = true →
    (s.bridge.port.table = [] →
      exec (.flush h extra) s = .next (s.withBridge
        { s.bridge with
          port := { s.bridge.port with arrivals := s.bridge.port.arrivals + 1 }
          sent := [.arrayFrame [h.tag, 0x00] []] }))
    ∧ ((∃ r ∈ s.bridge.port.table, arrivalEarlier r.arrival s.bridge.port.arrivals = true) →
        (∀ w ∈ s.bridge.port.table, w.kind = .flush →
          ∃ r ∈ s.bridge.port.table, r.tag ≠ w.tag ∧ arrivalEarlier r.arrival w.arrival = true) →
          exec (.flush h extra) s = .next (s.withBridge
            { s.bridge with
              port :=
                { s.bridge.port with
                  table := s.bridge.port.table ++
                    [{ tag := h.tag.toNat, kind := .flush, lba := h.lba.toNat, count := h.count.toNat
                       arrival := s.bridge.port.arrivals, pieces := [], status := .good, buffer := [] }]
                  arrivals := s.bridge.port.arrivals + 1 }
              sent := [] })))
  ∧ ∀ (cfg : Settings) (b : Bridge) (tag index : Nat) (r : Request) (p : Piece) (outcome : PieceOutcome)
      (blocks : List Block),
      b.port.request? tag = some r → b.piece? tag index = some p → r.kind ≠ .flush →
      (p.direction = .read → outcome = .good → p.lba - r.lba + blocks.length ≤ r.buffer.length) →
      let o := p.lba - r.lba
      let ended : Request :=
        { r with
          pieces := r.pieces.map (fun q =>
            if q.index = index then { q with state := .done, outcome := some outcome } else q)
          status := if outcome = .lost then .lost else r.status
          buffer := if p.direction = .read ∧ outcome = .good
            then r.buffer.take o ++ blocks ++ r.buffer.drop (o + blocks.length) else r.buffer }
      let f := (b.port.table.filter (fun x => x.tag ≠ tag ∧ (x.kind = .read ∨ x.kind = .write))).length
      let b' := b.finishPiece cfg tag index outcome blocks
      ((∃ q ∈ ended.pieces, q.state ≠ .done) →
          b'.port.request? tag = some ended ∧ b'.sent = b.sent ∧ b'.port.foreground = b.port.foreground
            ∧ b'.pacing = b.pacing)
        ∧ ((∀ q ∈ ended.pieces, q.state = .done) →
          b'.port.request? tag = none ∧ b'.port.foreground = f ∧ b'.pacing = pacingAfter cfg b.pacing f
            ∧ ∃ more : List Output,
                b'.sent = b.sent ++ .arrayFrame [BitVec.ofNat 8 tag, if ended.status = .lost then 0x04 else 0x00]
                    (if r.kind = .read ∧ ended.status = .good then ended.buffer else []) :: more
                  ∧ (∀ x ∈ more, ∃ w ∈ b.port.table, w.kind = .flush
                      ∧ x = .arrayFrame [BitVec.ofNat 8 w.tag, w.status.status.code] [])
                  ∧ ((b.port.table.map Request.tag).Nodup →
                      b.port.table.Pairwise (fun x y => arrivalEarlier x.arrival y.arrival = true) →
                      let rest := b.port.table.filter (fun x => x.tag ≠ tag)
                      more = (rest.takeWhile (fun w => w.kind = .flush)).map (fun w =>
                          .arrayFrame [BitVec.ofNat 8 w.tag, w.status.status.code] [])
                        ∧ b'.port.table = rest.dropWhile (fun w => w.kind = .flush)))
        ∧ b'.router.inCurrent = b.router.inCurrent.filter (fun e => ¬(e.tag = tag ∧ e.index = index))
        ∧ (∀ i, p.slot = some i → (b'.engine.slot i).pending = (b.engine.slot i).pending - 1)
        ∧ b'.members = b.members ∧ b'.shelves = b.shelves
        ∧ ∃ left : Bridge, b' = left.testGate.endService (.piece tag index)
            ∧ left =
              { b with
                port := b'.port, pacing := b'.pacing, sent := b'.sent
                router := { b.router with
                  inCurrent := b.router.inCurrent.filter (fun e => ¬(e.tag = tag ∧ e.index = index)) }
                engine := match p.slot with
                  | none => b.engine
                  | some i => b.engine.setSlot i { b.engine.slot i with pending := (b.engine.slot i).pending - 1 } }

/-- How two arrival numbers are compared, that every number given out after another is later while fewer than 2^31 have been
given out since, and the first number after a reset (R28). A waiting piece may leave WAITING when no outstanding piece of
an earlier request shares an LBA with it, one of the two being a write, and, if it is a write, no earlier gather read
does; a gather read that is held may be released when no outstanding write piece of an earlier request shares an LBA with
its chunk (R31, R32). What may go goes one at a time: a piece of the first request of the table that has one, in index
order, or the first gather read, whichever has the earlier arrival number (R33). The course of an event, an order put
together from the rules and the model's own where they leave it open (log entries 2, 4, 5 and 24): the next thing to
happen is the first inner action, what it gives rise to coming before the rest; with none left an act of the shelf ports;
at their rest a dispatch; and after the dispatches a step of the engine. The rest of an event is the sequence of these
until nothing is left to do, or the model's bound of 1,000,000 is met. What each inner action does is what other
statements say of it. -/
def Obligations.ArrivalOrderAndDispatch : Prop :=
  (∀ a b : BitVec 32,
      (arrivalEarlier a b = true ↔ 1 ≤ (b - a).toNat ∧ (b - a).toNat ≤ 2 ^ 31 - 1)
        ∧ (arrivalEarlier b a = true ↔ 2 ^ 31 + 1 ≤ (b - a).toNat ∧ (b - a).toNat ≤ 2 ^ 32 - 1))
    ∧ (∀ (a : BitVec 32) (n : Nat), 1 ≤ n → n < 2 ^ 31 → arrivalEarlier a (a + BitVec.ofNat 32 n) = true)
    ∧ State.reset.bridge.port.arrivals = 0
    ∧ (∀ (b : Bridge) (arrival : BitVec 32) (p : Piece),
        b.pieceFree arrival p = true ↔
          p.state = .waiting
            ∧ (¬∃ r ∈ b.port.table, arrivalEarlier r.arrival arrival = true ∧ ∃ q ∈ r.pieces, q.state ≠ .done
                ∧ (p.direction = .write ∨ q.direction = .write)
                ∧ ∃ x, q.lba ≤ x ∧ x < q.lba + q.count ∧ p.lba ≤ x ∧ x < p.lba + p.count)
            ∧ ¬(p.direction = .write ∧ ∃ g ∈ b.port.gathers, arrivalEarlier g.arrival arrival = true
                ∧ ∃ x, g.chunk * b.engine.chunk ≤ x ∧ x < (g.chunk + 1) * b.engine.chunk
                    ∧ p.lba ≤ x ∧ x < p.lba + p.count))
    ∧ (∀ (b : Bridge) (g : Gather),
        b.gatherFree g = true ↔
          g.released = false
            ∧ ¬∃ r ∈ b.port.table, arrivalEarlier r.arrival g.arrival = true ∧ ∃ q ∈ r.pieces, q.state ≠ .done
                ∧ q.direction = .write
                ∧ ∃ x, q.lba ≤ x ∧ x < q.lba + q.count
                    ∧ g.chunk * b.engine.chunk ≤ x ∧ x < (g.chunk + 1) * b.engine.chunk)
    ∧ (∀ (cfg : Settings) (b : Bridge) (a : Action) (rest : List Action), b.work = a :: rest →
        let done : Bridge := ({ b with work := [] } : Bridge).perform cfg a
        b.tick cfg = some { done with work := done.work ++ rest })
    ∧ (∀ (cfg : Settings) (b : Bridge), b.work = [] →
        (∀ x, b.pump cfg = some x → b.tick cfg = some x)
          ∧ (∀ x, b.pump cfg = none → b.dispatchNext = some x → b.tick cfg = some x)
          ∧ (b.pump cfg = none → b.dispatchNext = none → b.tick cfg = b.engineAdvance))
    ∧ (∀ (cfg : Settings) (b : Bridge), ∃ (n : Nat) (course : Nat → Bridge),
        n ≤ 1000000 ∧ course 0 = b ∧ (∀ i < n, (course i).tick cfg = some (course (i + 1)))
          ∧ b.settle cfg = course n ∧ ((b.settle cfg).tick cfg = none ∨ n = 1000000))
    ∧ (∀ (cfg : Settings) (b : Bridge),
        (∀ c ending, b.perform cfg (.deliver c ending) = b.deliver c ending)
          ∧ (∀ tag index outcome blocks,
              b.perform cfg (.finishPiece tag index outcome blocks) = b.finishPiece cfg tag index outcome blocks)
          ∧ (∀ arrival blocks, b.perform cfg (.gatherPresent arrival blocks) = b.gatherPresent arrival blocks)
          ∧ (∀ w s, b.service? w = some s → b.perform cfg (.judgeStep w) = b.judgeStep s)
          ∧ (∀ w s, b.service? w = some s → s.withdrawn = false →
              b.perform cfg (.decideAgain w) = b.decideAndBegin s)
          ∧ (∀ row, b.perform cfg (.afterWriteOut row) = b.afterWriteOut cfg row)
          ∧ (∀ row, b.perform cfg (.gateOpened row) = b.gateOpened row)
          ∧ b.perform cfg .failEngine = b.failEngine ∧ b.perform cfg .choose = b.choose)
    ∧ ∀ b : Bridge,
        (b.dispatchNext = none ↔
            (∀ r ∈ b.port.table, ∀ p ∈ r.pieces, b.pieceFree r.arrival p = false)
              ∧ ∀ g ∈ b.port.gathers, b.gatherFree g = false)
          ∧ (∀ (earlier later : List Request) (r : Request) (before behind : List Piece) (p : Piece),
              b.port.table = earlier ++ r :: later → r.pieces = before ++ p :: behind →
              b.pieceFree r.arrival p = true → (∀ q ∈ before, b.pieceFree r.arrival q = false) →
              (∀ x ∈ earlier, ∀ q ∈ x.pieces, b.pieceFree x.arrival q = false) →
              (∀ g ∈ b.port.gathers, b.gatherFree g = true → arrivalEarlier g.arrival r.arrival = false) →
                b.dispatchNext = some (b.dispatchPiece r.tag p.index))
          ∧ ∀ (earlier later : List Gather) (g : Gather),
              b.port.gathers = earlier ++ g :: later → b.gatherFree g = true →
              (∀ x ∈ earlier, b.gatherFree x = false) →
              (∀ r ∈ b.port.table, ∀ p ∈ r.pieces, b.pieceFree r.arrival p = true →
                arrivalEarlier g.arrival r.arrival = true) →
                b.dispatchNext = some (b.releaseGather g)

/-! The load monitor and the shelf ports (chapters 7 and 8). -/

/-- The test of the pacing mode at an F change (R153): the table, and that with yield_exit below yield_enter no F meets
both tests. The class of a port's next grant: the table of R158. -/
def Obligations.PacingAndGrantTables : Prop :=
  (∀ (cfg : Settings) (b : Bridge),
      let f := (b.port.table.filter (fun r => r.kind = .read ∨ r.kind = .write)).length
      (b.foregroundChanged cfg).port.foreground = f
        ∧ (b.pacing = .normal → cfg.yieldEnter ≤ f → (b.foregroundChanged cfg).pacing = .yield)
        ∧ (b.pacing = .normal → f < cfg.yieldEnter → (b.foregroundChanged cfg).pacing = .normal)
        ∧ (b.pacing = .yield → f ≤ cfg.yieldExit → (b.foregroundChanged cfg).pacing = .normal)
        ∧ (b.pacing = .yield → cfg.yieldExit < f → (b.foregroundChanged cfg).pacing = .yield)
        ∧ (cfg.inRange = true → ¬(cfg.yieldEnter ≤ f ∧ f ≤ cfg.yieldExit)))
  ∧ ∀ (cfg : Settings) (mode : Pacing) (p : ShelfPort),
      let runOut : Prop := ∃ elapsed, p.starvation = some elapsed ∧ cfg.starveLimit ≤ elapsed
      (p.foreground = [] → p.migration = [] → grantClass cfg mode p = none)
        ∧ (p.foreground ≠ [] → p.migration = [] → grantClass cfg mode p = some .foreground)
        ∧ (p.foreground = [] → p.migration ≠ [] → grantClass cfg mode p = some .migration)
        ∧ (p.foreground ≠ [] → p.migration ≠ [] → mode = .normal → p.grants < cfg.weight →
            grantClass cfg mode p = some .foreground)
        ∧ (p.foreground ≠ [] → p.migration ≠ [] → mode = .normal → cfg.weight ≤ p.grants →
            grantClass cfg mode p = some .migration)
        ∧ (p.foreground ≠ [] → p.migration ≠ [] → mode = .yield → runOut → grantClass cfg mode p = some .migration)
        ∧ (p.foreground ≠ [] → p.migration ≠ [] → mode = .yield → ¬runOut → grantClass cfg mode p = some .foreground)

/-- A port grants when it has fewer than 64 outstanding commands and a queue that is not empty, and only then (R135).
The grant takes the head of the chosen queue, gives it the lowest free tag with attempt 1 and a running timer, sends it,
and changes the arbiter as R156 gives (R135, R139). The frame of a command goes to its member's shelf: the kind, the tag,
the slot, the block address in six bytes, least significant first, and the count, then the payload (R198). -/
def Obligations.GrantTakesLowestFreeTag : Prop :=
  (∀ (tag : Nat) (c : DriveCommand),
      let kind : Byte := match c.kind with
        | .dread => 0x01
        | .dwrite => 0x02
        | .dprobe => 0x03
      driveFrame tag c = .shelfFrame (c.member / 16)
        ([kind, BitVec.ofNat 8 tag, BitVec.ofNat 8 (c.member % 16)]
          ++ (List.range 6).map (fun i => BitVec.ofNat 8 (c.block / 256 ^ i)) ++ [BitVec.ofNat 8 c.count]) c.payload)
  ∧
  (∀ (cfg : Settings) (b : Bridge) (port : Nat),
      let p := b.shelf port
      (b.grantAt cfg port).isSome = true ↔ p.table.length < 64 ∧ (p.foreground ≠ [] ∨ p.migration ≠ []))
  ∧ ∀ (cfg : Settings) (b b' : Bridge) (port : Nat), port < b.shelves.length → b.grantAt cfg port = some b' →
    ∃ (cls : CommandClass) (c : DriveCommand) (tag : Nat),
      let p := b.shelf port
      let p' := b'.shelf port
      p.table.length < 64 ∧ grantClass cfg b.pacing p = some cls
        ∧ p.queue cls = c :: p'.queue cls
        ∧ tag < 64 ∧ (∀ e ∈ p.table, e.tag ≠ tag) ∧ (∀ t < tag, ∃ e ∈ p.table, e.tag = t)
        ∧ p'.table.Perm ({ tag := tag, command := c, cls := cls, attempt := 1, timer := cfg.cmdTimeout } :: p.table)
        ∧ b'.sent = b.sent ++ [driveFrame tag c]
        ∧ (cls = .foreground → p'.grants = min (p.grants + 1) cfg.weight ∧ p'.starvation = p.starvation
            ∧ p'.migration = p.migration)
        ∧ (cls = .migration → p'.grants = 0 ∧ p'.foreground = p.foreground
            ∧ p'.starvation = if p'.migration = [] then none else some 0)
        ∧ (∀ q, q ≠ port → b'.shelf q = b.shelf q)
        ∧ b'.port = b.port ∧ b'.engine = b.engine ∧ b'.parity = b.parity ∧ b'.members = b.members

/-- An answer whose tag is not outstanding, whose slot differs, or whose member is FAILED or STALE changes no state (R134,
R148). -/
def Obligations.AnswerDiscarded : Prop :=
  ∀ (port : Fin 6) (tag slot status : Byte) (body : Body) (s : State),
    (s.bridge.tagEntry? port tag.toNat = none
      ∨ ∃ e, s.bridge.tagEntry? port tag.toNat = some e
          ∧ (slot.toNat ≠ e.command.member % 16 ∨ (s.bridge.member e.command.member).state = .failed
              ∨ (s.bridge.member e.command.member).state = .stale)) →
      exec (.driveCompletion port tag slot status body) s = .next (s.withBridge { s.bridge with sent := [] })

/-- A DGOOD that fits its DREAD, and any DGOOD to a DWRITE, frees the command's tag and goes to its issuer with the blocks; a
DREAD answered DMEDIA below media_limit raises the member's media count and goes to its issuer as DMEDIA; the rest of the
event follows (R141, R142). Taken as DMEDIA are the statuses 0x01 and 0x03 to 0xFF, and a DGOOD whose body is not the
blocks that the DREAD asked for (R134, R198). Record reads of discovery are judged by R165 and stand apart. The second
part says how each issuer takes an outcome: the router ends the piece GOOD with the blocks on DGOOD, and hands it to the
parity unit else (R51); the engine has its gathered chunk on DGOOD, and hands it to the parity unit else (R77); a service
records the result of its command, and its step is judged with the last one (R123 to R126); and a write of a write-out, a
stage write, a checkpoint write and a read of the stage copy end as the statements on them say (R82, R100, R108, R172). -/
def Obligations.AnswerDelivered : Prop :=
  (∀ (port : Fin 6) (tag slot status : Byte) (body : Body) (s : State) (e : TagEntry),
    s.bridge.tagEntry? port tag.toNat = some e → slot.toNat = e.command.member % 16 →
    s.bridge.memberFailed e.command.member = false → (∀ odd, e.command.issuer ≠ .recordRead odd) →
    (e.command.kind = .dread → status = 0x00 → body.blocks.length = e.command.count → body.tail = [] →
        exec (.driveCompletion port tag slot status body) s = .next (s.withBridge (Bridge.settle s.mgmt.settings
          (({ s.bridge with sent := [] }.freeTag port e.tag).push [.deliver e.command (.good body.blocks)]))))
      ∧ (e.command.kind = .dwrite → status = 0x00 →
        exec (.driveCompletion port tag slot status body) s = .next (s.withBridge (Bridge.settle s.mgmt.settings
          (({ s.bridge with sent := [] }.freeTag port e.tag).push [.deliver e.command (.good [])]))))
      ∧ (e.command.kind = .dread →
          (status ≠ 0x00 ∧ status ≠ 0x02 ∨ status = 0x00 ∧ (body.blocks.length ≠ e.command.count ∨ body.tail ≠ [])) →
          e.command.member < s.bridge.members.length →
          min ((s.bridge.member e.command.member).media + 1) 255 < s.mgmt.settings.mediaLimit →
            ∃ b : Bridge,
              exec (.driveCompletion port tag slot status body) s = .next (s.withBridge (b.settle s.mgmt.settings))
                ∧ (b.member e.command.member).media = min ((s.bridge.member e.command.member).media + 1) 255
                ∧ (b.member e.command.member).state = (s.bridge.member e.command.member).state
                ∧ (∀ m, m ≠ e.command.member → b.member m = s.bridge.member m)
                ∧ b.work = s.bridge.work ++ [.deliver e.command .media]
                ∧ b.tagEntry? port e.tag = none
                ∧ b.port = s.bridge.port ∧ b.router = s.bridge.router ∧ b.engine = s.bridge.engine))
  ∧ ∀ (b : Bridge) (c : DriveCommand),
      (∀ tag index, c.issuer = .plainRead tag index →
          (∀ blocks, b.deliver c (.good blocks) = b.push [.finishPiece tag index .good blocks])
            ∧ b.deliver c .media = b.push [.handOver (.piece tag index) false])
        ∧ (∀ arrival, c.issuer = .gather arrival →
          (∀ blocks, b.deliver c (.good blocks) = b.gatherPresent arrival blocks)
            ∧ b.deliver c .media = b.push [.handOver (.chunk arrival) false])
        ∧ (∀ w role s ending, c.issuer = .service w role → b.service? w = some s →
            b.deliver c ending =
              (b.onService w (fun s =>
                { s with results := s.results ++ [(role, ending)], outstanding := s.outstanding - 1 })).push
                (if s.outstanding ≤ 1 then [.judgeStep w] else []))
        ∧ (∀ w role ending, c.issuer = .service w role → b.service? w = none → b.deliver c ending = b)
        ∧ ∀ ending,
            (∀ i, c.issuer = .writeOut i → b.deliver c ending = b.writeOutEnded i)
              ∧ (c.issuer = .stageWrite → b.deliver c ending = b.stageWriteEnded ending)
              ∧ (c.issuer = .checkpoint → b.deliver c ending = b.checkpointWriteEnded c.member ending)
              ∧ ∀ position, c.issuer = .stageRead position → b.deliver c ending = b.stageReadEnded position ending

/-- An answer DNOSLOT, a DMEDIA to a DWRITE, and a DMEDIA to a DREAD that brings the media count to media_limit make an
ONLINE member FAILED, and the rest of the event follows (R141, R142). Taken as DMEDIA are the statuses 0x01 and 0x03 to
0xFF, and a DGOOD whose body is not the blocks that the DREAD asked for (R134, R198). -/
def Obligations.AnswerFailsMember : Prop :=
  ∀ (port : Fin 6) (tag slot status : Byte) (body : Body) (s : State) (e : TagEntry),
    s.bridge.tagEntry? port tag.toNat = some e → slot.toNat = e.command.member % 16 →
    s.bridge.memberOnline e.command.member = true → (∀ odd, e.command.issuer ≠ .recordRead odd) →
    e.command.kind ≠ .dprobe →
    (status = 0x02 →
        exec (.driveCompletion port tag slot status body) s = .next (s.withBridge (Bridge.settle s.mgmt.settings
          ({ s.bridge with sent := [] }.declareFailed e.command.member))))
      ∧ ((status ≠ 0x00 ∧ status ≠ 0x02
            ∨ e.command.kind = .dread ∧ status = 0x00
              ∧ (body.blocks.length ≠ e.command.count ∨ body.tail ≠ [])) →
          (e.command.kind = .dwrite
            ∨ s.mgmt.settings.mediaLimit ≤ min ((s.bridge.member e.command.member).media + 1) 255) →
          e.command.member < s.bridge.members.length →
          exec (.driveCompletion port tag slot status body) s = .next (s.withBridge (Bridge.settle s.mgmt.settings
            (({ s.bridge with sent := [] }.raiseMedia e.command.member).declareFailed e.command.member))))

/-- The declaration of a member's failure, in the five steps of R146. (1) Its state is FAILED, the rest of its entry
kept. (2) Its commands leave the table and both queues of its port, the other commands staying in their order, and the
starvation timer stops when the migration queue is left empty (R156); a waiting step of the router or the parity unit
with a command to it is withdrawn whole, and an engine step keeps its other commands; and they end as failed toward
their issuers in the order outstanding by tag, foreground queue, migration queue, waiting steps of the foreground and
then of the migration list (R147). (3) The health of both layouts is computed anew (R120). (4) The engine enters FAILED
when work of it that was or is in flight needs a layout now BROKEN, and otherwise sets a hold request with cause MEMBER
for a column of a layout it needs, in COPY, FILL or RECOVER (R93, R94). (5) Alert cause MEMBER is set. What counts as
work in flight is the reading of log entry 13; that a write-out ended by the declaration still counts, and that what an
issuer hands over, judges or decides at an end follows these five steps, is the model's choice (log entry 16). The
second part says how each issuer takes a command that ended as failed: a piece and a gather chunk are handed to the
parity unit, a step of the parity unit is judged when it was its last command and decided again when it was withdrawn,
and the engine's writes end as its own rules give (R51, R77, R127). -/
def Obligations.MemberDeclaredFailed : Prop :=
  (∀ (b : Bridge) (m : Nat), m < b.members.length → m / 16 < b.shelves.length →
    let p := b.shelf (m / 16)
    let hit : List DriveCommand → Bool := fun step => step.any (fun c => c.member = m)
    let whole : List DriveCommand → Bool := fun step => step.any (fun c => match c.issuer with
      | .plainRead _ _ | .service _ _ => true
      | _ => false)
    let left : List DriveCommand → List DriveCommand := fun step =>
      if hit step && whole step then [] else step.filter (fun c => c.member ≠ m)
    let ends : List DriveCommand → List MemberEnd := fun step =>
      if hit step then
        match step.head? with
        | none => []
        | some c =>
            match c.issuer with
            | .service w _ => [.step w]
            | .plainRead _ _ => [.command c]
            | _ => (step.filter (fun c => c.member = m)).map .command
      else []
    let all : List MemberEnd :=
      ((p.table.map TagEntry.command).filter (fun c => c.member = m)
          ++ p.foreground.filter (fun c => c.member = m) ++ p.migration.filter (fun c => c.member = m)).map .command
        ++ b.foregroundWait.flatMap ends ++ b.migrationWait.flatMap ends
    ∃ marked cleared : Bridge,
      marked = { b with members := marked.members }
        ∧ marked.member m = { b.member m with state := .failed }
        ∧ (∀ k, k ≠ m → marked.member k = b.member k)
        ∧ cleared =
            { marked with
              shelves := cleared.shelves
              foregroundWait := (b.foregroundWait.map left).filter (fun step => step ≠ [])
              migrationWait := (b.migrationWait.map left).filter (fun step => step ≠ []) }
        ∧ (let migration := p.migration.filter (fun c => c.member ≠ m)
          cleared.shelf (m / 16) =
            { p with
              table := p.table.filter (fun e => e.command.member ≠ m)
              foreground := p.foreground.filter (fun c => c.member ≠ m)
              migration := migration
              starvation := if migration = [] then none else p.starvation })
        ∧ (∀ q, q ≠ m / 16 → cleared.shelf q = b.shelf q)
        ∧ (let ended := all.foldl
              (fun x e => match e with
                | .command c => x.deliver c .failed
                | .step w => x.withdrawStep w)
              cleared
          let seen := { ended with parity :=
            { ended.parity with
              healthCurrent := layoutHealth ended.members ended.engine.current
              healthTarget := layoutHealth ended.members ended.engine.target } }
          let writing : Bridge → Prop := fun x => ∃ i, (x.engine.slot i).state = .writing ∧ 0 < (x.engine.slot i).writes
          let broken : Prop :=
            (seen.health .current = .broken ∧ ∃ g ∈ seen.port.gathers, g.released = true)
              ∨ (seen.health seen.engine.writtenLayout = .broken ∧ (writing b ∨ writing seen))
          let holds : Prop :=
            (∃ l ∈ seen.engine.neededLayouts, ∃ d, seen.engine.descriptor l = some d ∧ m ∈ d.members)
              ∧ (seen.engine.state = .copy ∨ seen.engine.state = .fill ∨ seen.engine.state = .recover)
          (broken → b.declareFailed m = seen.failEngine.raise 0x02)
            ∧ (¬broken → holds → b.declareFailed m =
                { seen with engine := { seen.engine with hold := some .member }, causes := seen.causes ||| 0x02 })
            ∧ (¬broken → ¬holds → b.declareFailed m = { seen with causes := seen.causes ||| 0x02 })))
  ∧ ∀ (b : Bridge) (c : DriveCommand),
      (∀ tag index, c.issuer = .plainRead tag index → b.deliver c .failed = b.push [.handOver (.piece tag index) false])
        ∧ (∀ arrival, c.issuer = .gather arrival → b.deliver c .failed = b.push [.handOver (.chunk arrival) false])
        ∧ (∀ w role s, c.issuer = .service w role → b.service? w = some s →
            b.deliver c .failed =
              (b.onService w (fun s =>
                { s with results := s.results ++ [(role, .failed)], outstanding := s.outstanding - 1 })).push
                (if s.outstanding ≤ 1 then [.judgeStep w] else []))
        ∧ (∀ w, b.withdrawStep w =
            (b.onService w (fun s => { s with results := [], outstanding := 0 })).push [.decideAgain w])
        ∧ (∀ i, c.issuer = .writeOut i → b.deliver c .failed = b.writeOutEnded i)
        ∧ (c.issuer = .stageWrite → b.deliver c .failed = b.stageWriteEnded .failed)
        ∧ (c.issuer = .checkpoint → b.deliver c .failed = b.checkpointWriteEnded c.member .failed)
        ∧ ∀ position, c.issuer = .stageRead position → b.deliver c .failed = b.stageReadEnded position .failed

/-- A timer expiry with the attempt number at most retry_limit sends the same command again under its tag, one attempt
higher, with its timer started again, and changes nothing else (R139, R160); the last attempt's expiry of a DREAD or
DWRITE, record reads of discovery apart, makes its ONLINE member FAILED. The last attempt's expiry of a probe makes its
member EMPTY: one of ADMIT lowers the number outstanding or ends the command with OK, and one of discovery finds its
member absent (R150, R151, R164). That of a record read makes its member absent and takes its records from the
candidates (R165). The choice event follows in the event of discovery's last probe or record read, and in no other
(R164, R167). -/
def Obligations.TimerExpiry : Prop :=
  ∀ (port : Fin 6) (tag : Fin 64) (s : State) (e : TagEntry), s.bridge.tagEntry? port tag = some e →
    (e.attempt ≤ s.mgmt.settings.retryLimit →
        exec (.commandTimerExpiry port tag) s = .next (s.withBridge
          { s.bridge with
            shelves := s.bridge.shelves.modify port (fun p =>
              { p with table := p.table.map (fun x =>
                  if x.tag = e.tag then
                    { e with attempt := e.attempt + 1, timer := s.mgmt.settings.cmdTimeout } else x) })
            sent := [driveFrame e.tag e.command] }))
      ∧ (s.mgmt.settings.retryLimit < e.attempt → e.command.kind ≠ .dprobe →
          (∀ odd, e.command.issuer ≠ .recordRead odd) → s.bridge.memberOnline e.command.member = true →
            exec (.commandTimerExpiry port tag) s = .next (s.withBridge (Bridge.settle s.mgmt.settings
              ({ s.bridge with sent := [] }.declareFailed e.command.member))))
      ∧ (s.mgmt.settings.retryLimit < e.attempt → s.bridge.shaped → e.command.member < 96 →
          let m := e.command.member
          let blank : Member :=
            { state := .empty, capacity := 0, currentColumn := none, targetColumn := none, media := 0, best := none }
          (e.command.kind = .dprobe → e.command.issuer = .admitProbe → ∀ n, s.bridge.command.state = .executing n →
              ∃ b : Bridge,
                exec (.commandTimerExpiry port tag) s = .next (s.withBridge (b.settle s.mgmt.settings))
                  ∧ b.member m = blank ∧ (∀ k, k ≠ m → b.member k = s.bridge.member k)
                  ∧ b.tagEntry? port e.tag = none ∧ b.work = s.bridge.work
                  ∧ (2 ≤ n → b.command = { s.bridge.command with state := .executing (n - 1) })
                  ∧ (n = 1 → b.command =
                      { state := .idle, code := 2, result := .ok, sequence := s.bridge.command.sequence + 1 }))
            ∧ (∀ d, s.bridge.discovery = some d → m < d.members.length →
                (e.command.kind = .dprobe → e.command.issuer = .discoveryProbe →
                  ∃ (b : Bridge) (d' : Discovery),
                    exec (.commandTimerExpiry port tag) s = .next (s.withBridge (b.settle s.mgmt.settings))
                      ∧ b.member m = blank ∧ (∀ k, k ≠ m → b.member k = s.bridge.member k)
                      ∧ b.tagEntry? port e.tag = none
                      ∧ b.discovery = some d' ∧ (d'.member m).probe = .absent ∧ d'.candidates = d.candidates
                      ∧ (d'.member m).over = true ∧ (∀ k, k ≠ m → d'.member k = d.member k)
                      ∧ (d'.members.all DiscoveryMember.over = true → b.work = s.bridge.work ++ [.choose])
                      ∧ (d'.members.all DiscoveryMember.over = false → b.work = s.bridge.work))
                ∧ ∀ odd, e.command.kind = .dread → e.command.issuer = .recordRead odd → d.answered m = true →
                  ∃ (b : Bridge) (d' : Discovery),
                    exec (.commandTimerExpiry port tag) s = .next (s.withBridge (b.settle s.mgmt.settings))
                      ∧ b.member m = blank ∧ (∀ k, k ≠ m → b.member k = s.bridge.member k)
                      ∧ b.tagEntry? port e.tag = none
                      ∧ b.discovery = some d' ∧ (d'.member m).probe = .absent
                      ∧ (∀ k, k ≠ m → d'.member k = d.member k)
                      ∧ (d'.members.all DiscoveryMember.over = true → b.work = s.bridge.work ++ [.choose])
                      ∧ (d'.members.all DiscoveryMember.over = false → b.work = s.bridge.work)
                      ∧ ∀ c ∈ d'.candidates, ∀ x ∈ c.copies, x.1 ≠ m))

/-- The run-out of a starvation timer changes nothing but the time that the port's running timer is known to have run; a
stopped one does not run (R156). At the port's next grant in YIELD with both queues holding commands a timer that was
running gives the grant to migration (R158). That the known time is raised to starve_limit is the model's bookkeeping, no
rule of the spec, by which running out changes no state (log entry 9). -/
def Obligations.StarvationTimerRunsOut : Prop :=
  ∀ (port : Fin 6) (s : State),
    let t := s.withBridge
      { s.bridge with
        shelves := s.bridge.shelves.modify port (fun p =>
          { p with starvation := p.starvation.map (fun elapsed => max elapsed s.mgmt.settings.starveLimit) })
        sent := [] }
    exec (.starvationTimerRunOut port) s = .next t
      ∧ (s.bridge.shaped → (s.bridge.shelf port).foreground ≠ [] → (s.bridge.shelf port).migration ≠ [] →
          (s.bridge.shelf port).starvation ≠ none →
            grantClass s.mgmt.settings .yield (t.bridge.shelf port) = some .migration)

/-- A step whose members have not failed is queued whole when its class's step wait list is empty and every queue has
room for it, and joins the list otherwise; in both cases no queue grows beyond its room (R137, 7.2). Of a step with
commands to FAILED or STALE members, these end as failed toward their issuer, neither queued nor sent, and the others
are handed over as a step (R147). The head of a step wait list leaves it when every queue has room for it, its commands
joining their queues in the step's order, and stays otherwise (R137). The starvation timer of a port starts from zero when
commands join its migration queue while that is empty, and goes on as it was otherwise (R156). That both lists are looked
at whenever the ports act, the foreground one first and before any grant, and that the first port that can grant makes one
grant then, is the model's reading (log entries 4 and 6). -/
def Obligations.StepsQueuedWithinRoom : Prop :=
  (∀ (b : Bridge) (cls : CommandClass) (step : List DriveCommand), b.shaped → b.queuesFit → step ≠ [] →
    (∀ c ∈ step, c.issuer.cls = cls ∧ c.member < 96) →
      let needed : Nat → Nat := fun q => (step.filter (fun c => c.member / 16 = q)).length
      let room : Nat := match cls with
        | .foreground => 1024
        | .migration => 256
      let fits : Prop := ∀ q < 6, needed q = 0 ∨ ((b.shelf q).queue cls).length + needed q ≤ room
      let joined : Bridge → Prop := fun b' =>
        ∀ q, (b'.shelf q).queue cls = (b.shelf q).queue cls ++ step.filter (fun c => q < 6 ∧ c.member / 16 = q)
          ∧ (b'.shelf q).table = (b.shelf q).table ∧ (b'.shelf q).grants = (b.shelf q).grants
          ∧ (b'.shelf q).starvation =
            if cls = .migration ∧ q < 6 ∧ needed q ≠ 0 ∧ (b.shelf q).migration = [] then some 0
            else (b.shelf q).starvation
      ((∀ c ∈ step, b.memberFailed c.member = false) →
          let b' := b.issueStep cls step
          b'.queuesFit ∧ b'.work = b.work
            ∧ (b.waitList cls = [] → fits → b'.waitList cls = [] ∧ joined b')
            ∧ (¬(b.waitList cls = [] ∧ fits) → b'.shelves = b.shelves ∧ b'.waitList cls = b.waitList cls ++ [step]))
        ∧ ∀ rest, b.waitList cls = step :: rest →
            (fits → ∃ b', b.admitWaiting cls = some b' ∧ b'.queuesFit ∧ b'.waitList cls = rest ∧ joined b'
                ∧ b'.work = b.work ∧ b'.engine = b.engine
                ∧ ∀ other, other ≠ cls → b'.waitList other = b.waitList other
                    ∧ ∀ q, (b'.shelf q).queue other = (b.shelf q).queue other)
              ∧ (¬fits → b.admitWaiting cls = none))
    ∧ (∀ (b : Bridge) (cls : CommandClass) (step : List DriveCommand),
        let dead : List DriveCommand := step.filter (fun c => b.memberFailed c.member)
        let live : List DriveCommand := step.filter (fun c => !b.memberFailed c.member)
        b.issueStep cls step = (b.push (dead.map (fun c => .deliver c .failed))).issueStep cls live
          ∧ b.issueStep cls [] = b)
    ∧ ∀ (cfg : Settings) (b : Bridge),
        (∀ cls, b.waitList cls = [] → b.admitWaiting cls = none)
          ∧ (∀ b', b.admitWaiting .foreground = some b' → b.pump cfg = some b')
          ∧ (∀ b', b.admitWaiting .foreground = none → b.admitWaiting .migration = some b' → b.pump cfg = some b')
          ∧ (b.admitWaiting .foreground = none → b.admitWaiting .migration = none →
              (∀ port < 6, ∀ b', b.grantAt cfg port = some b' → (∀ q < port, b.grantAt cfg q = none) →
                  b.pump cfg = some b')
                ∧ ((∀ port < 6, b.grantAt cfg port = none) → b.pump cfg = none))

/-! The router (chapter 3). -/

/-- The class of a piece by where its target row stands: the table of R46. At its dispatch a piece is placed in the
current layout, and while EXPANDING in the target layout, and served by its class, CURRENT when the volume is not
EXPANDING; one whose target row carries the stage-loss mark ends LOST (R44, R45, R173). A piece served in a layout has
its class and its place there, and enters the current-layout set when it is CURRENT; a read of an ONLINE member is
ISSUED with one foreground DREAD, which is queued or waits, and every other piece is handed to the parity unit (R51,
R52, R63). -/
def Obligations.RoutingTable : Prop :=
  (∀ (e : Engine) (t : Nat),
      (t < e.doneMark → ∀ d, e.classify d t = .target)
        ∧ (e.doneMark ≤ t → (∀ i, ¬((e.slot i).state ≠ .free ∧ (e.slot i).row = some t)) →
            ∀ d, e.classify d t = .current)
        ∧ ∀ i, e.doneMark ≤ t → (e.slot i).row = some t →
            (∀ j, j ≠ i → ¬((e.slot j).state ≠ .free ∧ (e.slot j).row = some t)) →
              ((e.slot i).state = .gather → e.classify .read t = .current ∧ e.classify .write t = .through)
                ∧ ((e.slot i).state = .full → e.classify .read t = .slotRead ∧ e.classify .write t = .through)
                ∧ ((e.slot i).state = .staging ∨ (e.slot i).state = .writing →
                    e.classify .read t = .slotRead ∧ e.classify .write t = .park))
  ∧ (∀ (b : Bridge) (tag index : Nat) (p : Piece) (cur : Descriptor), b.piece? tag index = some p →
      b.engine.current = some cur →
      let o := p.lba % cur.chunk
      let place := placeOf .current cur p.chunk o p.count
      (b.engine.volume ≠ .expanding → b.dispatchPiece tag index = b.serveInLayout tag p .current place)
        ∧ ∀ tgt : Descriptor, b.engine.volume = .expanding → b.engine.target = some tgt →
            let n := tgt.members.length - 1
            let t := p.chunk / n
            (b.engine.stageLoss = some t → b.dispatchPiece tag index = b.push [.finishPiece tag index .lost []])
              ∧ (b.engine.stageLoss ≠ some t →
                  (b.engine.classify p.direction t = .current →
                      b.dispatchPiece tag index = b.serveInLayout tag p .current place)
                    ∧ (b.engine.classify p.direction t = .target →
                      b.dispatchPiece tag index
                        = b.serveInLayout tag p .target (placeOf .target tgt p.chunk o p.count))
                    ∧ (b.engine.classify p.direction t = .park → b.dispatchPiece tag index = b.servePark tag p t)
                    ∧ ∀ i, b.engine.slotHolding t = some i →
                        (b.engine.classify p.direction t = .slotRead →
                            b.dispatchPiece tag index = b.serveSlotRead tag p i (p.chunk % n) o)
                          ∧ (b.engine.classify p.direction t = .through →
                            b.dispatchPiece tag index = b.serveThrough tag p i (p.chunk % n) place)))
  ∧ ∀ (b : Bridge) (tag : Nat) (p : Piece) (cls : PieceClass) (place : Place), b.shaped →
      let m := b.columnMember place.layout place.column
      let dread : DriveCommand :=
        { kind := .dread, member := m, block := 1024 + place.row * b.engine.chunk + place.offset, count := place.count
          payload := [], issuer := .plainRead tag p.index }
      let b' := b.serveInLayout tag p cls place
      (b.piece? tag p.index = some p →
          b'.piece? tag p.index = some
            { p with
              cls := some cls, place := some place
              state := if p.direction = .read ∧ b.memberOnline m = true then .issued else p.state })
        ∧ (cls = .current →
          b'.router.inCurrent = b.router.inCurrent ++ [{ tag := tag, index := p.index, row := place.row }])
        ∧ (cls ≠ .current → b'.router.inCurrent = b.router.inCurrent)
        ∧ (p.direction = .write ∨ b.memberOnline m = false →
            b'.work = b.work ++ [.handOver (.piece tag p.index) (p.direction = .write)] ∧ b'.shelves = b.shelves)
        ∧ (p.direction = .read → b.memberOnline m = true → m < 96 →
            b'.work = b.work
              ∧ ((b'.shelf (m / 16)).foreground = (b.shelf (m / 16)).foreground ++ [dread]
                    ∧ b'.foregroundWait = b.foregroundWait
                  ∨ b'.shelves = b.shelves ∧ b'.foregroundWait = b.foregroundWait ++ [[dread]]))
        ∧ b'.engine = b.engine ∧ b'.members = b.members

/-- A PARK write is parked in the hold queue, PARKED, while that has fewer than 32 entries and in the park-wait list,
PARK_WAIT, otherwise; while the engine is FAILED it ends LOST at once (R58, R61). At the completion of the row's write-out
each parked piece has class TARGET and its place in the target layout, and they are handed over as writes, the hold queue
first, both in order (R60). A SLOT_READ piece ends GOOD with its blocks of the slot's data position, and nothing is
issued (R53). A THROUGH write replaces its blocks in the slot and no others, raises the slot's pending count by one and is
marked with the slot, enters the current-layout set and is handed over as a write at its place in the current
layout (R54). -/
def Obligations.ParkedAndSlotPiecesServed : Prop :=
  (∀ (b : Bridge) (tag : Nat) (p : Piece) (t : Nat),
      let b' := b.servePark tag p t
      let parked : PieceState → Prop := fun state =>
        b.piece? tag p.index = some p →
          b'.piece? tag p.index = some { p with cls := some .park, state := state }
      (b.engine.state = .failed → b' = b.push [.finishPiece tag p.index .lost []])
        ∧ (b.engine.state ≠ .failed →
          (b.router.hold.length < 32 →
              b'.router.hold = b.router.hold ++ [{ tag := tag, index := p.index, row := t }]
                ∧ b'.router.parkWait = b.router.parkWait ∧ parked .parked)
            ∧ (32 ≤ b.router.hold.length →
              b'.router.hold = b.router.hold
                ∧ b'.router.parkWait = b.router.parkWait ++ [{ tag := tag, index := p.index, row := t }]
                ∧ parked .parkWait)
            ∧ b'.work = b.work ∧ b'.router.inCurrent = b.router.inCurrent ∧ b'.shelves = b.shelves))
    ∧ (∀ (b : Bridge) (tgt : Descriptor), b.engine.target = some tgt →
        (∀ e ∈ b.router.hold ++ b.router.parkWait, (b.piece? e.tag e.index).isSome) →
        let n := tgt.members.length
        let b' := b.releaseParked
        b'.router.hold = [] ∧ b'.router.parkWait = [] ∧ b'.router.inCurrent = b.router.inCurrent
          ∧ b'.work = b.work ++ (b.router.hold ++ b.router.parkWait).map (fun e =>
              .handOver (.piece e.tag e.index) true)
          ∧ ∀ tag index p, b.piece? tag index = some p →
              b'.piece? tag index = some
                (if ∃ e ∈ b.router.hold ++ b.router.parkWait, e.tag = tag ∧ e.index = index then
                  { p with
                    cls := some .target
                    place := some
                      { layout := .target, row := p.chunk / (n - 1)
                        column := (p.chunk / (n - 1) % n + 1 + p.chunk % (n - 1)) % n
                        offset := p.lba % tgt.chunk, count := p.count } }
                else p))
    ∧ (∀ (b : Bridge) (tag : Nat) (p : Piece) (i : SlotId) (position offset : Nat),
        let b' := b.serveSlotRead tag p i position offset
        (b.piece? tag p.index = some p → b'.piece? tag p.index = some { p with cls := some .slotRead })
          ∧ b'.work = b.work
            ++ [.finishPiece tag p.index .good ((((b.engine.slot i).data.getD position []).drop offset).take p.count)]
          ∧ b'.engine = b.engine ∧ b'.router = b.router ∧ b'.shelves = b.shelves ∧ b'.sent = b.sent)
    ∧ ∀ (b : Bridge) (tag : Nat) (p : Piece) (i : SlotId) (position : Nat) (place : Place),
        let new := b.pieceData tag p.index
        let s := b.engine.slot i
        let old := s.data.getD position []
        position < s.data.length → place.offset + new.length ≤ old.length →
        let b' := b.serveThrough tag p i position place
        let s' := b'.engine.slot i
        (b.piece? tag p.index = some p →
            b'.piece? tag p.index = some { p with cls := some .through, place := some place, slot := some i })
          ∧ s'.pending = s.pending + 1 ∧ s'.state = s.state ∧ s'.row = s.row ∧ s'.present = s.present
          ∧ s'.data.length = s.data.length
          ∧ (∀ k, k ≠ position → s'.data[k]? = s.data[k]?)
          ∧ (∀ k, place.offset ≤ k → k < place.offset + new.length →
              (s'.data.getD position [])[k]? = new[k - place.offset]?)
          ∧ (∀ k, k < place.offset ∨ place.offset + new.length ≤ k → (s'.data.getD position [])[k]? = old[k]?)
          ∧ (∀ j, j ≠ i → b'.engine.slot j = b.engine.slot j)
          ∧ b'.router.inCurrent = b.router.inCurrent ++ [{ tag := tag, index := p.index, row := place.row }]
          ∧ b'.work = b.work ++ [.handOver (.piece tag p.index) true]
          ∧ b'.shelves = b.shelves

/-! The parity unit (chapter 6). -/

/-- The form of service of a write piece: the table of R121, with the results kept of a complete read step going to the
write step of the form that uses them. The form of service of a read piece or a gather chunk: the table of R122. The
drive commands of each step: which columns of the row it reads or writes, at the service's blocks, and what it writes
(R123 to R126). A step that begins has its commands issued together, foreground for a piece and migration for a gather
chunk, its piece ISSUED, and the results kept only for a write step (R121, R127, R130). A step that is over: after a
read step of a write service the form is decided anew from its results; a write step ends its piece with the outcome of
R124; a read step whose reads all ended DGOOD serves the work, and any other is decided anew; the service of a withdrawn
chunk ends (R118, R123 to R126). A piece served ends GOOD with its blocks, and one that no form serves ends LOST; a
chunk served is reported to the engine and its service ends, and one that no form serves makes the engine FAILED (R128,
R130). -/
def Obligations.FormsAndSteps : Prop :=
  (∀ (b : Bridge) (s : Service),
      let layout := s.place.layout
      let dataFailed := b.memberFailed (b.columnMember layout s.place.column)
      let parityFailed := b.memberFailed (b.columnMember layout (s.place.row % b.layoutColumns layout))
      let peersOnline : Prop := ∀ c < b.layoutColumns layout,
        c ≠ s.place.column → c ≠ s.place.row % b.layoutColumns layout → b.memberOnline (b.columnMember layout c) = true
      (b.health layout = .broken → b.decideWrite s = none)
        ∧ (b.health layout ≠ .broken → parityFailed = true → b.decideWrite s = some .writeData)
        ∧ (b.health layout ≠ .broken → parityFailed = false → dataFailed = true → ∀ sum,
            (s.kept = .peers sum → b.decideWrite s = some .recomputeWriteParity)
              ∧ (s.kept = .nothing → b.decideWrite s = some .recomputeReadPeers))
        ∧ (b.health layout ≠ .broken → parityFailed = false → dataFailed = false → s.unreadable = false → ∀ d p,
            (s.kept = .old d p → b.decideWrite s = some .rmwWriteNew)
              ∧ (s.kept = .nothing → b.decideWrite s = some .rmwReadOld))
        ∧ (b.health layout ≠ .broken → parityFailed = false → dataFailed = false → s.unreadable = true → peersOnline →
            ∀ sum, (s.kept = .peers sum → b.decideWrite s = some .recomputeWriteDataParity)
              ∧ (s.kept = .nothing → b.decideWrite s = some .recomputeReadPeers))
        ∧ (b.health layout ≠ .broken → parityFailed = false → dataFailed = false → s.unreadable = true → ¬peersOnline →
            b.decideWrite s = some .rmwReadOld))
  ∧ (∀ (b : Bridge) (s : Service),
      let layout := s.place.layout
      let ownFailed := b.memberFailed (b.columnMember layout s.place.column)
      let othersOnline : Prop := ∀ c < b.layoutColumns layout,
        c ≠ s.place.column → b.memberOnline (b.columnMember layout c) = true
      (b.health layout = .broken → b.decideRead s = none)
        ∧ (b.health layout ≠ .broken → ownFailed = true → b.decideRead s = some .reconstructReadPeers)
        ∧ (b.health layout ≠ .broken → ownFailed = false → othersOnline → b.decideRead s = some .reconstructReadPeers)
        ∧ (b.health layout ≠ .broken → ownFailed = false → ¬othersOnline → b.decideRead s = some .rereadReadOwn))
  ∧ (∀ (b : Bridge) (s : Service),
      let n := b.layoutColumns s.place.layout
      let own := s.place.column
      let parity := s.place.row % n
      let command : DriveKind → List Block → Nat → StepRole → DriveCommand := fun kind payload column role =>
        { kind := kind, member := b.columnMember s.place.layout column
          block := 1024 + s.place.row * b.engine.chunk + s.place.offset, count := s.place.count, payload := payload
          issuer := .service s.work role }
      let read := command .dread []
      let write := command .dwrite
      let others := (List.range n).filter (fun c => c ≠ own)
      b.stepCommands s .rmwReadOld = [read own .own, read parity .parity]
        ∧ b.stepCommands s .rmwWriteNew = [write (b.newData s) own .own, write (b.newParity s) parity .parity]
        ∧ b.stepCommands s .recomputeReadPeers
            = (others.filter (fun c => c ≠ parity)).map (fun c => read c (.peer c))
        ∧ b.stepCommands s .recomputeWriteParity = [write (b.newParity s) parity .parity]
        ∧ b.stepCommands s .recomputeWriteDataParity
            = [write (b.newData s) own .own, write (b.newParity s) parity .parity]
        ∧ b.stepCommands s .writeData = [write (b.newData s) own .own]
        ∧ b.stepCommands s .reconstructReadPeers = others.map (fun c => read c (.peer c))
        ∧ b.stepCommands s .rereadReadOwn = [read own .own]
        ∧ b.stepCommands s .lockWait = [])
  ∧ (∀ (b : Bridge) (s : Service) (step : ServiceStep),
      let keeps := step ∈ [ServiceStep.rmwWriteNew, .recomputeWriteParity, .recomputeWriteDataParity, .writeData]
      let begun : Bridge → Bridge := fun x =>
        x.onParity (fun p =>
          { p with services := p.services.map (fun r =>
              if r.work = s.work then
                { r with
                  step := step, results := [], outstanding := (b.stepCommands s step).length
                  kept := if keeps then r.kept else .nothing }
              else r) })
      (∀ tag index, s.work = .piece tag index →
          b.beginStep s step =
            (begun (b.onPiece tag index (fun p => { p with state := .issued }))).issueStep .foreground
              (b.stepCommands s step))
        ∧ (∀ arrival, s.work = .chunk arrival →
          b.beginStep s step = (begun b).issueStep .migration (b.stepCommands s step))
        ∧ (b.decide s = none → b.decideAndBegin s = b.unserved s.work)
        ∧ (b.decide s = some step → b.decideAndBegin s = b.beginStep s step)
        ∧ (s.write = true → b.decide s = b.decideWrite s) ∧ (s.write = false → b.decide s = b.decideRead s))
  ∧ (∀ (b : Bridge) (s : Service),
      let anew : Service → Bridge := fun s' =>
        (b.onParity (fun p =>
          { p with services := p.services.map (fun r => if r.work = s'.work then s' else r) })).decideAndBegin s'
      (s.withdrawn = true → b.judgeStep s = b.endService s.work)
        ∧ (s.withdrawn = false →
          (s.step = .rmwReadOld → b.judgeStep s = anew s.afterReadOld)
            ∧ (s.step = .recomputeReadPeers → b.judgeStep s = anew s.afterReadPeers)
            ∧ (∀ tag index, s.work = .piece tag index →
                s.step ∈ [ServiceStep.rmwWriteNew, .recomputeWriteParity, .recomputeWriteDataParity, .writeData] →
                b.judgeStep s = b.push [.finishPiece tag index
                  (writeOutcome (s.ended .own) (s.ended .parity) (b.health s.place.layout = .broken)) []])
            ∧ (s.step = .reconstructReadPeers → ∀ runs : List (List Block),
                s.results.map Prod.snd = runs.map Ending.good →
                b.judgeStep s = b.served s.work (xorAll s.place.count runs))
            ∧ (s.step = .reconstructReadPeers → (∃ x ∈ s.results, ∀ blocks, x.2 ≠ .good blocks) →
                b.judgeStep s = b.decideAndBegin s)
            ∧ (s.step = .rereadReadOwn → ∀ blocks, s.ended .own = some (.good blocks) →
                b.judgeStep s = b.served s.work blocks)
            ∧ (s.step = .rereadReadOwn → (∀ blocks, s.ended .own ≠ some (.good blocks)) →
                b.judgeStep s = b.decideAndBegin s)))
  ∧ ∀ (b : Bridge) (tag index : Nat) (arrival : BitVec 32) (blocks : List Block),
      b.served (.piece tag index) blocks = b.push [.finishPiece tag index .good blocks]
        ∧ b.served (.chunk arrival) blocks = (b.push [.gatherPresent arrival blocks]).endService (.chunk arrival)
        ∧ b.unserved (.piece tag index) = b.push [.finishPiece tag index .lost []]
        ∧ b.unserved (.chunk arrival) = b.push [.failEngine]

/-- The outcome of a write step (R124), and the health of a layout from its failed columns (R120). -/
def Obligations.WriteOutcomeAndHealth : Prop :=
  (∀ (data parity : Option Ending) (broken : Bool) (blocks : List Block),
      (data = some (.good blocks) → writeOutcome data parity broken = .good)
        ∧ ((data = none ∨ data = some .failed) → parity = some (.good blocks) → broken = false →
            writeOutcome data parity broken = .good)
        ∧ ((data = none ∨ data = some .failed) → (parity = none ∨ parity = some .failed ∨ broken = true) →
            writeOutcome data parity broken = .lost))
    ∧ ∀ (members : List Member) (d : Descriptor),
        let failed := (d.members.filter (fun m =>
          (members.getD m Member.reset).state = .failed ∨ (members.getD m Member.reset).state = .stale)).length
        layoutHealth members none = .absent
          ∧ (failed = 0 → layoutHealth members (some d) = .ok)
          ∧ (failed = 1 → layoutHealth members (some d) = .degraded)
          ∧ (2 ≤ failed → layoutHealth members (some d) = .broken)

/-- Work handed over is served at the place of its piece, or at the source of its gather chunk in the current layout,
one that has left the overlap order not at all (R51, R75, R94). With no form it ends at once, DATA_ONLY begins without a
lock, and every other form asks for its row lock (R115, R116, R121, R122). Asking, with an entry of the key the work
joins the tail of its FIFO; with none and a free entry it is the holder of a new one and begins; and otherwise it joins
the tail of the allocation wait list; a piece that waits is in LOCK_WAIT unless it was ISSUED (R116). Releasing, the
head of the FIFO is the holder and begins; with no waiter the entry is free and the wait list is taken from its head,
each work joining the FIFO of its key, taking a free entry and beginning, or staying (R117). The end of a service takes
its record away and releases its lock. The keys of the lock table stay distinct and the table within 64 entries (R114).
-/
def Obligations.RowLocksTakenAndReleased : Prop :=
  (∀ b : Bridge, b.parity.locksSound →
      (∀ s : Service, (b.requestLock s).parity.locksSound) ∧ ∀ w : Work, (b.releaseLock w).parity.locksSound)
    ∧ (∀ (b : Bridge) (tag index : Nat) (arrival : BitVec 32),
        (∀ p, b.piece? tag index = some p → b.workPlace (.piece tag index) = p.place)
          ∧ (∀ g c, b.gather? arrival = some g → b.engine.current = some c →
              b.workPlace (.chunk arrival) = some (placeOf .current c g.chunk 0 c.chunk))
          ∧ (b.gather? arrival = none → b.workPlace (.chunk arrival) = none))
    ∧ (∀ (cfg : Settings) (b : Bridge) (w : Work) (write : Bool),
        (b.workPlace w = none → b.perform cfg (.handOver w write) = b)
          ∧ ∀ place, b.workPlace w = some place →
              let s : Service :=
                { work := w, write := write, place := place, step := .lockWait, outstanding := 0, results := []
                  unreadable := false, kept := .nothing, withdrawn := false }
              let kept : Bridge := b.onParity (fun p => { p with services := p.services ++ [s] })
              (b.decide s = none → b.perform cfg (.handOver w write) = b.unserved w)
                ∧ (b.decide s = some .writeData →
                    b.perform cfg (.handOver w write) = kept.beginStep s .writeData)
                ∧ (∀ step, b.decide s = some step → step ≠ .writeData →
                    b.perform cfg (.handOver w write) = kept.requestLock s))
    ∧ (∀ (b : Bridge) (s : Service),
        let keyed : LockEntry → Prop := fun e => e.layout = s.place.layout ∧ e.row = s.place.row
        let waiting : (ParityUnit → ParityUnit) → Bridge := fun f =>
          let x : Bridge := b.onParity f
          match s.work with
          | .piece tag index =>
              x.onPiece tag index (fun q => { q with state := if q.state = .issued then .issued else .lockWait })
          | .chunk _ => x
        ((∃ e ∈ b.parity.locks, keyed e) →
            b.requestLock s = waiting (fun p =>
              { p with locks := p.locks.map (fun e =>
                  if e.layout = s.place.layout ∧ e.row = s.place.row then { e with waiters := e.waiters ++ [s.work] }
                  else e) }))
          ∧ ((¬∃ e ∈ b.parity.locks, keyed e) → b.parity.locks.length < 64 →
            b.requestLock s =
              (b.onParity (fun p =>
                { p with locks := p.locks ++
                    [{ layout := s.place.layout, row := s.place.row, holder := s.work, waiters := [] }] })).decideAndBegin s)
          ∧ ((¬∃ e ∈ b.parity.locks, keyed e) → 64 ≤ b.parity.locks.length →
            b.requestLock s = waiting (fun p => { p with allocation := p.allocation ++ [s.work] })))
    ∧ (∀ (b : Bridge) (w : Work),
        b.endService w =
            (b.onParity (fun p => { p with services := p.services.filter (fun s => s.work ≠ w) })).releaseLock w
          ∧ ((∀ e ∈ b.parity.locks, e.holder ≠ w) → b.releaseLock w = b)
          ∧ ∀ (before after : List LockEntry) (e : LockEntry), b.parity.locksSound →
              b.parity.locks = before ++ e :: after → e.holder = w → (∀ x ∈ before, x.holder ≠ w) →
              (∀ next rest, e.waiters = next :: rest →
                  b.releaseLock w =
                    (b.onParity (fun p =>
                      { p with locks := before ++ { e with holder := next, waiters := rest } :: after })).push
                        [.beginService next])
                ∧ (e.waiters = [] →
                  b.releaseLock w = (b.onParity (fun p => { p with locks := before ++ after })).takeAllocation))
    ∧ (∀ (cfg : Settings) (b : Bridge) (w : Work) (s : Service), b.service? w = some s →
        b.perform cfg (.beginService w) = b.decideAndBegin s)
    ∧ ∀ b : Bridge,
        b.takeAllocation = b.parity.allocation.foldl
          (fun x w =>
            match x.service? w with
            | none => x
            | some s =>
                let keyed := x.parity.locks.any (fun e => e.layout = s.place.layout ∧ e.row = s.place.row)
                if keyed then
                  x.onParity (fun p =>
                    { p with locks := p.locks.map (fun e =>
                        if e.layout = s.place.layout ∧ e.row = s.place.row then { e with waiters := e.waiters ++ [w] }
                        else e) })
                else if x.parity.locks.length < 64 then
                  (x.onParity (fun p =>
                    { p with locks := p.locks ++
                        [{ layout := s.place.layout, row := s.place.row, holder := w, waiters := [] }] })).push
                    [.beginService w]
                else x.onParity (fun p => { p with allocation := p.allocation ++ [w] }))
          (b.onParity (fun p => { p with allocation := [] }))

/-! The restripe engine (chapters 4 and 5). -/

/-- A row's slot from its allocation to FULL. A FREE slot, slot A first, is allocated in COPY or FILL to row DM, or to
DM + 1 when a slot holds DM, below R (R74), with no CANCEL in progress and, by log entry 5, no hold request; and in no
other case is one allocated, so none in IDLE, HELD, RECOVER or FAILED. A copy row
gathers: one gather read for each source position, in ascending order with the next arrival numbers, the other positions
zero and present (R75, R76). A fill row is FULL at once, all zeros. A gathered chunk is placed at its position, which is
present, the outstanding count falls, the gather read leaves the overlap order, and the slot is FULL when that was the
last (R77, R78); one that has been dropped changes nothing. A gather read that is released makes the engine FAILED when
the current layout is BROKEN, and otherwise sends one migration DREAD of its chunk to an ONLINE source member, or hands
the chunk to the parity unit (R75); one that ends DGOOD brings its chunk, and any other hands it over (R77). -/
def Obligations.RowGathered : Prop :=
  (∀ (e : Engine) (i : SlotId) (row : Nat),
      e.allocation = some (i, row) ↔
        (e.state = .copy ∨ e.state = .fill) ∧ e.cancel = false ∧ e.hold = none
          ∧ (e.slot i).state = .free ∧ (i = .b → e.slotA.state ≠ .free)
          ∧ row < e.rows ∧ e.slotHolding row = none
          ∧ (row = e.doneMark ∨ row = e.doneMark + 1 ∧ e.slotHolding e.doneMark ≠ none))
    ∧ (∀ (b : Bridge) (i : SlotId) (row : Nat) (c t : Descriptor), b.engine.current = some c →
        b.engine.target = some t →
        let n := t.members.length - 1
        let kc := (c.rows * (c.members.length - 1) - 1) / n
        let sources := min n (c.rows * (c.members.length - 1) - row * n)
        let b' := b.allocateRow i row
        let s := b'.engine.slot i
        s.row = some row ∧ s.pending = 0 ∧ s.parity = none ∧ s.present.length = n ∧ s.data.length = n
          ∧ (∀ j, j ≠ i → b'.engine.slot j = b.engine.slot j)
          ∧ (row ≤ kc →
              s.state = .gather ∧ s.phase = .copy ∧ s.gathers = sources
                ∧ (∀ p < n, s.present[p]? = some (decide (sources ≤ p)))
                ∧ (∀ p, sources ≤ p → p < n → s.data[p]? = some (List.replicate c.chunk 0))
                ∧ b'.port.gathers = b.port.gathers ++ (List.range sources).map (fun p =>
                    { arrival := b.port.arrivals + BitVec.ofNat 32 p, chunk := row * n + p, slot := i, position := p
                      released := false })
                ∧ b'.port.arrivals = b.port.arrivals + BitVec.ofNat 32 sources)
          ∧ (kc < row →
              s.state = .full ∧ s.phase = .fill ∧ s.gathers = 0 ∧ (∀ p < n, s.present[p]? = some true)
                ∧ (∀ p < n, s.data[p]? = some (List.replicate c.chunk 0)) ∧ b'.port = b.port))
    ∧ (∀ (b : Bridge) (i : SlotId) (row : Nat) (c : Descriptor), b.engine.current = some c → b.engine.target = none →
        let b' := b.allocateRow i row
        let s := b'.engine.slot i
        s.state = .full ∧ s.row = some row ∧ s.phase = .fill ∧ s.gathers = 0 ∧ s.pending = 0 ∧ s.parity = none
          ∧ s.data = List.replicate (c.members.length - 1) (List.replicate c.chunk 0)
          ∧ s.present = List.replicate (c.members.length - 1) true ∧ b'.port = b.port)
    ∧ (∀ (b : Bridge) (g : Gather) (c : Descriptor), b.engine.current = some c →
        let n := c.members.length
        let row := g.chunk / (n - 1)
        let m := c.members.getD ((row % n + 1 + g.chunk % (n - 1)) % n) 0
        let released : Bridge := { b with port :=
          { b.port with gathers := b.port.gathers.map (fun x =>
              if x.arrival = g.arrival then { x with released := true } else x) } }
        (b.health .current = .broken → b.releaseGather g = released.failEngine)
          ∧ (b.health .current ≠ .broken → b.memberOnline m = true →
              b.releaseGather g = released.issueStep .migration
                [{ kind := .dread, member := m, block := 1024 + row * c.chunk, count := c.chunk, payload := []
                   issuer := .gather g.arrival }])
          ∧ (b.health .current ≠ .broken → b.memberOnline m = false →
              b.releaseGather g = released.push [.handOver (.chunk g.arrival) false]))
    ∧ (∀ (b : Bridge) (arrival : BitVec 32) (blocks : List Block),
        b.gatherEnded arrival (.good blocks) = b.gatherPresent arrival blocks
          ∧ b.gatherEnded arrival .media = b.push [.handOver (.chunk arrival) false]
          ∧ b.gatherEnded arrival .failed = b.push [.handOver (.chunk arrival) false])
    ∧ ∀ (b : Bridge) (arrival : BitVec 32) (blocks : List Block),
        let b' := b.gatherPresent arrival blocks
        (b.gather? arrival = none → b' = b)
          ∧ ∀ g, b.gather? arrival = some g →
              let s := b.engine.slot g.slot
              let s' := b'.engine.slot g.slot
              let complete : Prop := s.state = .gather ∧ s.gathers ≤ 1 ∧ ∀ x ∈ s.present.set g.position true, x = true
              s'.data = s.data.set g.position blocks ∧ s'.present = s.present.set g.position true
                ∧ s'.gathers = s.gathers - 1 ∧ s'.row = s.row ∧ s'.pending = s.pending
                ∧ (complete → s'.state = .full) ∧ (¬complete → s'.state = s.state)
                ∧ (∀ j, j ≠ g.slot → b'.engine.slot j = b.engine.slot j)
                ∧ b'.port.gathers = b.port.gathers.filter (fun x => x.arrival ≠ arrival)

/-- What a write-out lays down (R80, R81): a slot that enters WRITING has the XOR of its data positions as its parity chunk;
the data position that R7 places on a column, the parity chunk on the row's parity column, and one write for each column
whose member has not failed, each with what its column holds. An ended write lowers the outstanding count, and with the
last one DM is the next row, the slot is FREE, the parked pieces are released from that state, as the statement on their
release says (R60), and the later steps of the completion follow (R82): the engine is in COPY or FILL as DM gives, which
ends RECOVER (R83, R84), and the checkpoint that is due, if one is, is started (R102); an engine that is FAILED does
nothing. -/
def Obligations.RowWrittenOut : Prop :=
  (∀ (s : Slot) (n k p : Nat), 3 ≤ n → p < n - 1 → s.columnData n k (dataColumn n k p) = s.data.getD p [])
    ∧ (∀ (s : Slot) (n k : Nat) (chunk : List Block), s.parity = some chunk → s.columnData n k (k % n) = chunk)
    ∧ (∀ (s : Slot) (c : Nat),
        s.startWriting c = { s with state := .writing, parity := some (xorAll c s.data), writes := 0 })
    ∧ (∀ (b : Bridge) (i : SlotId) (k : Nat) (parity : List Block), (b.engine.slot i).parity = some parity →
        let layout := b.engine.writtenLayout
        let n := b.layoutColumns layout
        b.writeOutStep i k
          = ((List.range n).filter (fun c => !b.memberFailed (b.columnMember layout c))).map (fun c =>
              { kind := .dwrite, member := b.columnMember layout c, block := 1024 + k * b.engine.chunk
                count := b.engine.chunk
                payload := if c = k % n then parity
                  else (b.engine.slot i).data.getD ((c + n - k % n - 1) % n) []
                issuer := .writeOut i }))
    ∧ (∀ (b : Bridge) (i : SlotId) (k : Nat), b.engine.state ≠ .failed → (b.engine.slot i).state = .writing →
        (b.engine.slot i).row = some k →
        let b' := b.writeOutEnded i
        (2 ≤ (b.engine.slot i).writes → b' = b.onSlot i (fun s => { s with writes := s.writes - 1 }))
          ∧ ((b.engine.slot i).writes = 1 →
              let advanced : Bridge := { b with engine := { b.engine.setSlot i Slot.reset with doneMark := k + 1 } }
              b' = advanced.releaseParked.push [.afterWriteOut k]
                ∧ (b.engine.target = none → b' = advanced.push [.afterWriteOut k])
                ∧ b'.engine = { b.engine.setSlot i Slot.reset with doneMark := k + 1 }
                ∧ b'.work.getLast? = some (.afterWriteOut k)
                ∧ (b.engine.target ≠ none → b'.router.hold = [] ∧ b'.router.parkWait = [])))
    ∧ ∀ (cfg : Settings) (b : Bridge) (k : Nat),
        (b.engine.state = .failed → b.afterWriteOut cfg k = b)
          ∧ (b.engine.state ≠ .failed → ∀ state : EngineState,
              (b.engine.volume = .initializing ∧ state = .fill
                ∨ b.engine.volume = .expanding ∧ ∃ c t : Descriptor, b.engine.current = some c ∧ b.engine.target = some t
                    ∧ state = if b.engine.doneMark ≤ (c.rows * (c.members.length - 1) - 1) / (t.members.length - 1)
                        then .copy else .fill) →
              let e := { b.engine with state := state }
              (e.dueCheckpoint cfg k = none → b.afterWriteOut cfg k = { b with engine := e })
                ∧ ∀ kind, e.dueCheckpoint cfg k = some kind →
                    b.afterWriteOut cfg k = { b with engine := e }.startCheckpoint kind none)

/-- The passage of the slot of row DM out of FULL. It may leave when its pending count is 0, no checkpoint is in flight
and no CANCEL is in progress, in COPY or FILL with no hold request, or in RECOVER (R79); of what the engine may do in an
event it goes before nothing but a hold that takes effect and an allocation (log entry 5). While EXPANDING a critical
row enters STAGING; any other enters WRITING when CM meets its guard threshold t_hi(k) + 1, and otherwise a forced
checkpoint is started and the slot stays FULL; while INITIALIZING it enters WRITING (R104). A slot that enters WRITING
has its parity built and asks for the write-out gate (R80): open when the current-layout set has no entry of the row,
and the write-out is issued, or the engine FAILED when the layout is BROKEN; closed otherwise, and the row is recorded
(R64, R81). A closed gate opens when the last entry of its row has left the set, which is reported, and the write-out is
issued then (R64). -/
def Obligations.RowLeavesFull : Prop :=
  (∀ (e : Engine) (i : SlotId) (k : Nat),
      e.leaving = some (i, k) ↔
        k = e.doneMark ∧ e.slotHolding k = some i ∧ (e.slot i).state = .full ∧ (e.slot i).pending = 0
          ∧ (((e.state = .copy ∨ e.state = .fill) ∧ e.hold = none) ∨ e.state = .recover)
          ∧ e.cancel = false ∧ e.checkpoint = none)
    ∧ (∀ (b : Bridge) (i : SlotId) (k : Nat), b.engine.holdsNow = false →
        (b.engine.allocation = some (i, k) → b.engineAdvance = some (b.allocateRow i k))
          ∧ (b.engine.allocation = none → b.engine.leaving = some (i, k) → b.engineAdvance = some (b.leaveFull i k))
          ∧ (b.engine.allocation = none → b.engine.leaving = none → b.engineAdvance = none))
    ∧ (∀ (b : Bridge) (i : SlotId) (k : Nat),
        (b.engine.target = none → b.leaveFull i k = b.enterWriting i k)
          ∧ ∀ c t : Descriptor, b.engine.current = some c → b.engine.target = some t →
              let n := c.members.length
              let n' := t.members.length
              (criticalRow n n' k = true → b.leaveFull i k = (b.onSlot i (fun s => { s with state := .staging })).stageRow)
                ∧ (criticalRow n n' k = false → highestTargetRow n n' k + 1 ≤ b.engine.checkMark →
                    b.leaveFull i k = b.enterWriting i k)
                ∧ (criticalRow n n' k = false → b.engine.checkMark < highestTargetRow n n' k + 1 →
                    b.leaveFull i k = b.startCheckpoint .forced none))
    ∧ (∀ (b : Bridge) (i : SlotId) (k : Nat),
        b.enterWriting i k = (b.onSlot i (fun s =>
            { s with state := .writing, parity := some (xorAll b.engine.chunk s.data), writes := 0 })).askGate i k
          ∧ ((∃ e ∈ b.router.inCurrent, e.row = k) →
              b.askGate i k = { b with router := { b.router with gate := some k } })
          ∧ ((∀ e ∈ b.router.inCurrent, e.row ≠ k) → b.askGate i k = b.issueWriteOut i k)
          ∧ (b.health b.engine.writtenLayout = .broken → b.issueWriteOut i k = b.failEngine)
          ∧ (b.health b.engine.writtenLayout ≠ .broken →
              b.issueWriteOut i k =
                (b.onSlot i (fun s => { s with writes := (b.writeOutStep i k).length })).issueStep .migration
                  (b.writeOutStep i k)))
    ∧ ∀ (b : Bridge) (k : Nat),
        (b.router.gate = none → b.testGate = b)
          ∧ (b.router.gate = some k → (∃ e ∈ b.router.inCurrent, e.row = k) → b.testGate = b)
          ∧ (b.router.gate = some k → (∀ e ∈ b.router.inCurrent, e.row ≠ k) →
              b.testGate = { b with router := { b.router with gate := none }, work := b.work ++ [.gateOpened k] })
          ∧ (b.engine.state = .failed → b.gateOpened k = b)
          ∧ ∀ i, b.engine.state ≠ .failed → b.engine.slotHolding k = some i → (b.engine.slot i).state = .writing →
              b.gateOpened k = b.issueWriteOut i k

/-- The staging of critical row DM (R106 to R109). The stage column is the lowest added column whose member is ONLINE;
with none the engine enters FAILED. The stage writes lay the slot's data positions, C blocks each, from member block 16
of its member on. With the last of them ended, the stage checkpoint is started when all ended DGOOD and the stage member
is ONLINE, and otherwise the row is staged anew. When the stage checkpoint has succeeded with its stage member ONLINE
the slot enters WRITING, and otherwise the row is staged anew. That each of these two steps follows in the event as an
action of its own, after a declaration of failure that brought it about, is the model's choice (log entry 16). -/
def Obligations.CriticalRowStaged : Prop :=
  (∀ (b : Bridge) (c t : Descriptor), b.engine.current = some c → b.engine.target = some t →
      let online : Nat → Prop := fun j => (b.member (t.members.getD j 0)).state = .online
      let n := t.members.length
      (∀ column, b.stageColumn = some column ↔
          c.members.length ≤ column ∧ column < n ∧ online column
            ∧ ∀ j, c.members.length ≤ j → j < column → ¬online j)
        ∧ (b.stageColumn = none ↔ ∀ j, c.members.length ≤ j → j < n → ¬online j)
        ∧ ∀ (s : Slot) (column : Nat), b.stageWrites s column = (List.range (n - 1)).map (fun p =>
            { kind := .dwrite, member := t.members.getD column 0, block := 16 + p * b.engine.chunk
              count := b.engine.chunk, payload := s.data.getD p [], issuer := .stageWrite }))
    ∧ (∀ (b : Bridge) (i : SlotId), b.engine.slotHolding b.engine.doneMark = some i →
        (b.stageColumn = none → b.stageRow = b.failEngine)
          ∧ ∀ column, b.stageColumn = some column →
              let step := b.stageWrites (b.engine.slot i) column
              b.stageRow = { b with engine :=
                { b.engine with staging := some { column := column, outstanding := step.length, failed := false } } }.issueStep
                  .migration step)
    ∧ (∀ (b : Bridge) (st : Staging) (ending : Ending), b.engine.staging = some st →
        let after : Staging :=
          { column := st.column, outstanding := st.outstanding - 1
            failed := st.failed || (match ending with
              | .good _ => false
              | .media | .failed => true) }
        let b' : Bridge := { b with engine := { b.engine with staging := some after } }
        (2 ≤ st.outstanding → b.stageWriteEnded ending = b')
          ∧ (st.outstanding ≤ 1 → b.stageWriteEnded ending = b'.push [.stageWritten]))
    ∧ (∀ (cfg : Settings) (b : Bridge) (st : Staging), b.engine.staging = some st →
        let online : Prop := (b.member (b.columnMember .target st.column)).state = .online
        (st.failed = false → online →
            b.perform cfg .stageWritten = b.startCheckpoint .stage (some (b.engine.doneMark, st.column)))
          ∧ (¬(st.failed = false ∧ online) → b.perform cfg .stageWritten = b.stageRow))
    ∧ (∀ (cfg : Settings) (b : Bridge), b.engine.staging = none →
        b.perform cfg .stageWritten = b ∧ b.perform cfg .stageDurable = b)
    ∧ (∀ (b : Bridge) (ending : Ending), b.engine.staging = none → b.stageWriteEnded ending = b)
    ∧ ∀ (cfg : Settings) (b : Bridge) (st : Staging) (i : SlotId), b.engine.staging = some st →
        b.engine.slotHolding b.engine.doneMark = some i →
        let online : Prop := (b.member (b.columnMember .target st.column)).state = .online
        (online →
            b.perform cfg .stageDurable
              = { b with engine := { b.engine with staging := none } }.enterWriting i b.engine.doneMark)
          ∧ (¬online → b.perform cfg .stageDurable = b.stageRow)

/-- The start of a checkpoint (R98, R99): the counter takes its value plus one (below 2^64 − 1; what it takes past that is a
free value, log entry 25), and with fewer ONLINE members of its layout than N' − 1, or N − 1, the engine enters FAILED and
nothing is written. Otherwise the checkpoint is in flight, and one step writes to each of these members a record under
that generation that declares what the table of checkpoint kinds gives, at block 0 for an even generation and block 8
for an odd one, and to each member that enters the volume with it an all-zero block at the other position. -/
def Obligations.CheckpointStarted : Prop :=
  ∀ (b : Bridge) (kind : CheckpointKind) (stage : Option (Nat × Nat)),
    let e := b.engine
    let blank : Descriptor := { chunk := 1, rows := 0, members := [] }
    let layout : Layout := if kind = .cancel ∨ e.target = none then .current else .target
    let columns := ((e.descriptor layout).map Descriptor.members).getD []
    let members := columns.filter (fun m => (b.member m).state = .online)
    let entering := match kind with
      | .openingCreate => members
      | .openingStart => members.filter (fun m => m ∉ (e.current.map Descriptor.members).getD [])
      | _ => []
    let volume : VolumeState := match kind with
      | .openingCreate => .initializing
      | .openingStart | .stage | .clearing | .forced => .expanding
      | .periodic => if e.target = none then .initializing else .expanding
      | .final | .cancel => .stable
    let mark := match kind with
      | .stage | .clearing | .forced | .periodic => e.doneMark
      | .openingCreate | .openingStart | .final | .cancel => 0
    let current := match kind, e.target with
      | .final, some t => t
      | _, _ => e.current.getD blank
    ∃ g : BitVec 64, (e.generation ≠ BitVec.allOnes 64 → g = e.generation + 1) ∧
      (let record : Record :=
        { generation := g, volume := volume, current := current
          target := if volume = .expanding then e.target else none, mark := mark, stage := stage }
      let position := if g.toNat % 2 = 0 then 0 else 8
      let write : Nat → Block → Nat → DriveCommand := fun block content m =>
        { kind := .dwrite, member := m, block := block, count := 1, payload := [content], issuer := .checkpoint }
      let c : Checkpoint :=
        { kind := kind, generation := g, mark := mark, stage := stage, threshold := columns.length - 1
          parts := members.map (fun m =>
            { member := m, outstanding := if m ∈ entering then 2 else 1, good := true }) }
      (members.length < columns.length - 1 →
          b.startCheckpoint kind stage = { b with engine := { e with generation := g } }.failEngine)
        ∧ (columns.length - 1 ≤ members.length →
          b.startCheckpoint kind stage =
            { b with engine := { e with generation := g, checkpoint := some c } }.issueStep .migration
              (members.map (write position record.block) ++ entering.map (write (8 - position) 0))))

/-- The checkpoint that is due at a write-out completion (R102, R103), and how a checkpoint ends (R100): with at least
its threshold of members DGOOD, CM and the durable record take what it declared, nothing else for an opening, clearing,
forced or periodic one, and then what the kind changes: for a stage checkpoint the row's own step follows in the event,
for a final one the end of the expansion or of the initialization, and for a cancel one the end of the expansion undone
(R87, R91, R108; that the row's step is an action of its own, after a declaration of failure that ended the last write,
is the model's choice, log entry 16); with fewer, whatever its kind, the engine enters FAILED and both keep their
values. An ended write lowers what is outstanding of its member, whose part is good only when every write of it was, and
the last one ends the checkpoint (R98, R100). -/
def Obligations.CheckpointRules : Prop :=
  (∀ (cfg : Settings) (e : Engine) (k : Nat),
      (e.doneMark = e.rows → e.dueCheckpoint cfg k = some .final)
        ∧ (e.doneMark ≠ e.rows → e.volume = .expanding → e.critical k = true →
            e.dueCheckpoint cfg k = some .clearing)
        ∧ (e.doneMark ≠ e.rows → ¬(e.volume = .expanding ∧ e.critical k = true) →
            e.checkMark ≤ e.doneMark → cfg.cpInterval ≤ e.doneMark - e.checkMark →
            e.dueCheckpoint cfg k = some .periodic)
        ∧ (e.doneMark ≠ e.rows → ¬(e.volume = .expanding ∧ e.critical k = true) →
            e.doneMark - e.checkMark < cfg.cpInterval → e.checkMark ≤ e.doneMark → 1 ≤ cfg.cpInterval →
            e.dueCheckpoint cfg k = none))
    ∧ (∀ (b : Bridge) (c : Checkpoint) (m : Nat) (ending : Ending), b.engine.checkpoint = some c →
        let good : Bool := match ending with
          | .good _ => true
          | .media | .failed => false
        let after : Checkpoint :=
          { c with parts := c.parts.map (fun p =>
              if p.member = m then { p with outstanding := p.outstanding - 1, good := p.good && good } else p) }
        let b' : Bridge := { b with engine := { b.engine with checkpoint := some after } }
        ((∀ p ∈ after.parts, p.outstanding = 0) → b.checkpointWriteEnded m ending = b'.checkpointEnded after)
          ∧ ((∃ p ∈ after.parts, p.outstanding ≠ 0) → b.checkpointWriteEnded m ending = b'))
    ∧ ∀ (b : Bridge) (c : Checkpoint),
        (c.threshold ≤ (c.parts.filter (fun p => p.good)).length →
            let b' : Bridge := { b with engine :=
              { b.engine with
                checkpoint := none, checkMark := c.mark
                durable := some { generation := c.generation, mark := c.mark, stage := c.stage } } }
            (c.kind ≠ .final → c.kind ≠ .cancel → c.kind ≠ .stage → b.checkpointEnded c = b')
              ∧ (c.kind = .stage → b.checkpointEnded c = b'.push [.stageDurable])
              ∧ (c.kind = .final → b.engine.target ≠ none → b.checkpointEnded c = b'.expansionDone)
              ∧ (c.kind = .final → b.engine.target = none → b.checkpointEnded c = b'.initializationDone)
              ∧ (c.kind = .cancel → b.checkpointEnded c = b'.cancelDone))
          ∧ ((c.parts.filter (fun p => p.good)).length < c.threshold → b.engine.state ≠ .failed →
              (b.checkpointEnded c).engine.state = .failed
                ∧ (b.checkpointEnded c).engine.checkMark = b.engine.checkMark
                ∧ (b.checkpointEnded c).engine.durable = b.engine.durable
                ∧ (b.checkpointEnded c).engine.checkpoint = none)

/-- The success of a final checkpoint and of a cancel checkpoint (R87, R91, R145, R119): the volume is STABLE and the
engine IDLE with both marks 0 and no hold request; after the final one of an expansion the target descriptor is the
current one, every target column is a current column, every TARGET piece in flight is entered in the current-layout set
under its row and has its place in the new current layout, as have the row locks and services, and alert cause DONE is
set; after that of an initialization the descriptor and the members stand and DONE is set; after the cancel one the
current descriptor stands, no member has a target column, the ONLINE members that had only that are PRESENT, and every
other member keeps its state. That the engine is IDLE with no hold request also after the final checkpoint of a staged
row R − 1 is the model's choice against R110 (log entry 23). -/
def Obligations.FinalAndCancelCheckpoints : Prop :=
  (∀ b : Bridge, b.engine.target = none →
    let b' := b.initializationDone
    b'.engine.volume = .stable ∧ b'.engine.state = .idle ∧ b'.engine.doneMark = 0 ∧ b'.engine.checkMark = 0
      ∧ b'.engine.current = b.engine.current ∧ b'.engine.target = none ∧ b'.engine.hold = none
      ∧ b'.engine.generation = b.engine.generation ∧ b'.engine.durable = b.engine.durable
      ∧ b'.causes = b.causes ||| 0x08 ∧ b'.members = b.members ∧ b'.port = b.port ∧ b'.router = b.router)
  ∧ ∀ (b : Bridge) (t : Descriptor), b.engine.target = some t →
    (let b' := b.expansionDone;
      b'.engine.volume = .stable ∧ b'.engine.state = .idle ∧ b'.engine.doneMark = 0 ∧ b'.engine.checkMark = 0
        ∧ b'.engine.current = some t ∧ b'.engine.target = none ∧ b'.engine.hold = none
        ∧ b'.engine.generation = b.engine.generation
        ∧ b'.causes = b.causes ||| 0x08
        ∧ b'.parity.healthTarget = .absent
        ∧ b'.parity.locks = b.parity.locks.map (fun e => { e with layout := .current })
        ∧ b'.parity.services = b.parity.services.map (fun s => { s with place := { s.place with layout := .current } })
        ∧ (let inFlight : Piece → Bool := fun p => p.state ≠ .done ∧ p.cls = some .target
          b'.router.inCurrent = b.router.inCurrent ++ b.port.table.flatMap (fun q =>
              (q.pieces.filter inFlight).map (fun p =>
                { tag := q.tag, index := p.index, row := (p.place.map Place.row).getD 0 }))
            ∧ ∀ tag index p, b.piece? tag index = some p →
                b'.piece? tag index = some
                  (if inFlight p then { p with place := p.place.map (fun x => { x with layout := .current }) } else p))
        ∧ b'.members.length = b.members.length
        ∧ ∀ m < b.members.length,
            (b'.member m).state = (b.member m).state ∧ (b'.member m).targetColumn = none
              ∧ (b'.member m).currentColumn = ((b.member m).targetColumn.orElse (fun _ => (b.member m).currentColumn)))
    ∧ (let b' := b.cancelDone;
      b'.engine.volume = .stable ∧ b'.engine.state = .idle ∧ b'.engine.doneMark = 0 ∧ b'.engine.checkMark = 0
        ∧ b'.engine.current = b.engine.current ∧ b'.engine.target = none ∧ b'.engine.hold = none
        ∧ b'.engine.cancel = false ∧ b'.causes = b.causes ∧ b'.parity.healthTarget = .absent
        ∧ ∀ m < b.members.length,
            (b'.member m).targetColumn = none ∧ (b'.member m).currentColumn = (b.member m).currentColumn
              ∧ (b'.member m).capacity = (b.member m).capacity ∧ (b'.member m).media = (b.member m).media
              ∧ ((b.member m).state = .online → (b.member m).targetColumn.isSome = true →
                  (b.member m).currentColumn = none → (b'.member m).state = .present)
              ∧ ((b.member m).state ≠ .online ∨ (b.member m).currentColumn ≠ none ∨ (b.member m).targetColumn = none →
                  (b'.member m).state = (b.member m).state))

/-- The engine's entry into FAILED (R94): the hold request, the CANCEL, the checkpoint and the gather reads go, alert cause
FAILED is set, every parked piece ends LOST, and the marks, descriptors, volume state and slots stand. That no step of the
engine waits for queue room any longer, a gather chunk whose step waited having no command outstanding then, while its
commands in the queues stay there, is the reading of log entry 6. The engine's lock work is withdrawn then, as when a
CANCEL is taken (R118): no gather chunk stays in a FIFO or in the allocation wait list, and the service of one that waited
goes; one that holds a lock with no command outstanding ends, with the release of its lock, and one with a command
outstanding is withdrawn and keeps its lock, as every piece does, the waiting pieces in their order. The step of a
withdrawn chunk is judged with its last command, and its service ends then, with the release of its lock. -/
def Obligations.EngineFailureEffects : Prop :=
  (∀ b : Bridge, b.engine.state = .failed → b.failEngine = b)
    ∧ (∀ b : Bridge, b.engine.state ≠ .failed →
        let b' := b.failEngine
        let dropped := b.migrationWait.filter (fun step => step.any (fun c => c.issuer.ofEngine))
        let waited : Service → Bool := fun s =>
          dropped.any (fun step => step.any (fun c =>
            match c.issuer with
            | .service w _ => w = s.work
            | _ => false))
        let withdrawn : Bridge := Bridge.withdrawChunks (b.onParity (fun p =>
          { p with services := p.services.map (fun s => if waited s then { s with outstanding := 0 } else s) }))
        b'.engine = { b.engine with
            state := .failed, resume := none, hold := none, cancel := false, checkpoint := none, staging := none }
          ∧ b'.port = { b.port with gathers := [] }
          ∧ b'.causes = b.causes ||| 0x10
          ∧ b'.foregroundWait = b.foregroundWait ∧ b'.shelves = b.shelves
          ∧ b'.migrationWait = b.migrationWait.filter (fun step => !step.any (fun c => c.issuer.ofEngine))
          ∧ b'.router.hold = [] ∧ b'.router.parkWait = []
          ∧ b'.router.inCurrent = b.router.inCurrent ∧ b'.members = b.members
          ∧ b'.parity = withdrawn.parity
          ∧ b'.work = withdrawn.work ++ (b.router.hold ++ b.router.parkWait).map (fun e =>
              Action.finishPiece e.tag e.index .lost []))
    ∧ (∀ b : Bridge, b.parity.locksSound →
        let b' := b.withdrawChunks
        let chunks := b.parity.services.filter (fun s => s.work.isChunk)
        let holds : Work → Bool := fun w => b.parity.locks.any (fun e => e.holder = w)
        let idle : Work → Bool := fun w => chunks.any (fun s => s.work = w ∧ s.outstanding = 0)
        b' = ((chunks.filter (fun s => s.outstanding = 0 ∧ holds s.work)).map Service.work).foldl Bridge.endService
            (b.onParity (fun p =>
              { p with
                locks := p.locks.map (fun e => { e with waiters := e.waiters.filter (fun w => !w.isChunk) })
                allocation := p.allocation.filter (fun w => !w.isChunk)
                services := (p.services.filter (fun s => !s.work.isChunk || holds s.work)).map (fun s =>
                  if s.work.isChunk then { s with withdrawn := true } else s) }))
          ∧ b'.parity.services =
              (b.parity.services.filter (fun s => !s.work.isChunk || holds s.work && !idle s.work)).map (fun s =>
                if s.work.isChunk then { s with withdrawn := true } else s)
          ∧ (∀ w ∈ b'.parity.allocation, w.isChunk = false)
          ∧ (∀ e ∈ b'.parity.locks, ∀ w ∈ e.waiters, w.isChunk = false)
          ∧ ∀ e ∈ b.parity.locks, idle e.holder = false →
              ∃ e' ∈ b'.parity.locks, e'.layout = e.layout ∧ e'.row = e.row ∧ e'.holder = e.holder
                ∧ e.waiters.filter (fun w => !w.isChunk) <+: e'.waiters)
    ∧ ∀ (cfg : Settings) (b : Bridge) (w : Work) (s : Service), b.service? w = some s → s.withdrawn = true →
        (∀ role ending,
            let b' := b.stepCommandEnded w role ending
            b'.parity.locks = b.parity.locks ∧ b'.parity.allocation = b.parity.allocation
              ∧ (2 ≤ s.outstanding → b'.work = b.work)
              ∧ (s.outstanding ≤ 1 → b'.work = b.work ++ [.judgeStep w]))
          ∧ b.perform cfg (.judgeStep w) = b.endService w
          ∧ b.perform cfg (.decideAgain w) = b.endService w

/-! Discovery (chapter 9). -/

/-- How a probe ends (R150, R151, R164): an answer DGOOD with at least six bytes makes its member PRESENT with the capacity
they spell, and any other answer makes it EMPTY. A probe of ADMIT lowers the number outstanding, and the last one ends the
command with OK; a probe of discovery whose member holds at least 1024 blocks is followed by one step of the reads of
its blocks 0 and 8, which is queued or waits, and any other issues nothing and is the last of its member; the choice
event follows in the event of discovery's last probe or record read, and in no other (R164, R167). An answer to a record read frees its tag and ends the read
with the block of a DGOOD that carries one, with no answer of use for DNOSLOT, and as unreadable otherwise (R165). -/
def Obligations.ProbeAndRecordReadAnswered : Prop :=
  (∀ (port : Fin 6) (tag slot status : Byte) (body : Body) (s : State) (e : TagEntry),
      s.bridge.tagEntry? port tag.toNat = some e → slot.toNat = e.command.member % 16 →
      s.bridge.memberFailed e.command.member = false → e.command.kind = .dprobe →
      s.bridge.shaped → e.command.member < 96 →
      let m := e.command.member
      let capacity := leNat ((List.range 6).map (fun i => (bodyByte body i).getD 0))
      let blank : Member :=
        { state := .empty, capacity := 0, currentColumn := none, targetColumn := none, media := 0, best := none }
      let good : Prop := status = 0x00 ∧ 6 ≤ 4096 * body.blocks.length + body.tail.length
      ∃ b : Bridge,
        exec (.driveCompletion port tag slot status body) s = .next (s.withBridge (b.settle s.mgmt.settings))
          ∧ (∀ k, k ≠ m → b.member k = s.bridge.member k)
          ∧ (e.command.issuer = .admitProbe → ∀ n, s.bridge.command.state = .executing n →
              (good → b.member m = { blank with state := .present, capacity := capacity })
                ∧ (¬good → b.member m = blank) ∧ b.work = s.bridge.work
                ∧ (2 ≤ n → b.command = { s.bridge.command with state := .executing (n - 1) })
                ∧ (n = 1 → b.command =
                    { state := .idle, code := 2, result := .ok, sequence := s.bridge.command.sequence + 1 }))
          ∧ (e.command.issuer = .discoveryProbe → ∀ d, s.bridge.discovery = some d → m < d.members.length →
              ∃ d', b.discovery = some d' ∧ (∀ k, k ≠ m → d'.member k = d.member k) ∧ d'.candidates = d.candidates
                ∧ (good → b.member m = { blank with state := .present, capacity := capacity }
                    ∧ (d'.member m).probe = .answered capacity)
                ∧ (¬good → b.member m = blank ∧ (d'.member m).probe = .absent)
                ∧ ((d'.member m).over = true ↔ ¬(good ∧ 1024 ≤ capacity))
                ∧ (d'.members.all DiscoveryMember.over = true → b.work = s.bridge.work ++ [.choose])
                ∧ (d'.members.all DiscoveryMember.over = false → b.work = s.bridge.work)
                ∧ (¬(good ∧ 1024 ≤ capacity) → b.shelves = (s.bridge.freeTag port e.tag).shelves
                    ∧ b.migrationWait = s.bridge.migrationWait)
                ∧ (good → 1024 ≤ capacity →
                    let reads : List DriveCommand :=
                      [{ kind := .dread, member := m, block := 0, count := 1, payload := [], issuer := .recordRead false },
                       { kind := .dread, member := m, block := 8, count := 1, payload := [], issuer := .recordRead true }]
                    (b.shelf (m / 16)).migration = (s.bridge.shelf (m / 16)).migration ++ reads
                        ∧ b.migrationWait = s.bridge.migrationWait
                      ∨ b.shelf (m / 16) = (s.bridge.freeTag port e.tag).shelf (m / 16)
                        ∧ b.migrationWait = s.bridge.migrationWait ++ [reads])))
  ∧ ∀ (port : Fin 6) (tag slot status : Byte) (body : Body) (s : State) (e : TagEntry) (odd : Bool),
      s.bridge.tagEntry? port tag.toNat = some e → slot.toNat = e.command.member % 16 →
      s.bridge.memberFailed e.command.member = false → e.command.kind = .dread → e.command.count = 1 →
      e.command.issuer = .recordRead odd →
      let ends : RecordOutcome → State := fun outcome => s.withBridge (Bridge.settle s.mgmt.settings
        (({ s.bridge with sent := [] }.freeTag port e.tag).recordReadEnded e.command.member odd outcome))
      (∀ block, status = 0x00 → body = { blocks := [block], tail := [] } →
          exec (.driveCompletion port tag slot status body) s = .next (ends (.block block)))
        ∧ (status = 0x02 → exec (.driveCompletion port tag slot status body) s = .next (ends .gone))
        ∧ (status ≠ 0x02 → (status ≠ 0x00 ∨ body.blocks.length ≠ 1 ∨ body.tail ≠ []) →
          exec (.driveCompletion port tag slot status body) s = .next (ends .media))

/-- The chosen record is a standing candidate of highest generation, and among those of that generation one with the most
holders, and of these the one first read by member number and position (R166, R167); with none there is no chosen record.
Of a candidate, the generation is its record's, the holders are the members it was read from, the dissenting columns are
the answered columns of its own layout (the target's where it has one) that are no holders, and its rank is that of its
first copy, by member number and block 0 before block 8. How a record read of an answered
member ends (R165): a valid record stands among the candidates under that member and position, and the candidates already there stay; a block that is none, and DMEDIA, leave the candidates as they are;
with no answer of use the member is EMPTY and absent, and its records leave the candidates. Once both reads have ended the
member's best generation is the higher of its records, and once all have ended the choice follows. -/
def Obligations.RecordsReadAndChosen : Prop :=
  (∀ d : Discovery,
      (∀ c, d.choice = some c →
          c ∈ d.candidates ∧ (d.dissenting c).length ≤ 1
            ∧ ∀ x ∈ d.candidates, (d.dissenting x).length ≤ 1 →
                x.generation ≤ c.generation
                  ∧ (x.generation = c.generation → x.holders.length ≤ c.holders.length)
                  ∧ (x.generation = c.generation → x.holders.length = c.holders.length → c.rank ≤ x.rank))
        ∧ (d.choice = none → ∀ x ∈ d.candidates, 1 < (d.dissenting x).length))
  ∧ (∀ (d : Discovery) (c : Candidate) (r : Record), readRecord c.block = some r →
      c.generation = r.generation.toNat
        ∧ (∀ m, m ∈ d.dissenting c ↔
            m ∈ (r.target.getD r.current).members ∧ d.answered m = true ∧ ∀ odd, (m, odd) ∉ c.copies)
        ∧ (d.dissenting c).Nodup)
  ∧ (∀ c : Candidate,
      (∀ m, m ∈ c.holders ↔ ∃ odd, (m, odd) ∈ c.copies) ∧ c.holders.Nodup
        ∧ (c.copies ≠ [] → ∃ x ∈ c.copies, c.rank = 2 * x.1 + (if x.2 then 1 else 0))
        ∧ ∀ x ∈ c.copies, c.rank ≤ 2 * x.1 + (if x.2 then 1 else 0))
  ∧ ∀ (b : Bridge) (d : Discovery) (m : Nat) (odd : Bool), b.discovery = some d → d.answered m = true →
      m < d.members.length → m < b.members.length →
      let after := b.recordReadEnded m odd
      (∀ outcome, ∃ d', (after outcome).discovery = some d'
          ∧ (∀ k, k ≠ m → (after outcome).member k = b.member k ∧ d'.member k = d.member k)
          ∧ (d'.members.all DiscoveryMember.over = true → (after outcome).work = b.work ++ [.choose])
          ∧ (d'.members.all DiscoveryMember.over = false → (after outcome).work = b.work)
          ∧ (outcome ≠ .gone → (d'.member m).over = true →
              (((after outcome).member m).best.map BitVec.toNat)
                = ([(d'.member m).block0, (d'.member m).block8].filterMap (fun x =>
                    x.generation?.map BitVec.toNat)).max?))
        ∧ (∀ block, (readRecord block).isSome = true → ∃ d', (after (.block block)).discovery = some d'
          ∧ (d'.member m).read odd = .record block
          ∧ (∃ c ∈ d'.candidates, c.block = block ∧ (m, odd) ∈ c.copies)
          ∧ ∀ c ∈ d.candidates, ∃ c' ∈ d'.candidates, c'.block = c.block ∧ ∀ x ∈ c.copies, x ∈ c'.copies)
        ∧ (∀ block, readRecord block = none → ∃ d', (after (.block block)).discovery = some d'
          ∧ d'.candidates = d.candidates)
        ∧ (∃ d', (after .media).discovery = some d' ∧ (d'.member m).read odd = .unreadable
          ∧ d'.candidates = d.candidates ∧ ((after .media).member m).media = (b.member m).media
          ∧ ((after .media).member m).state = (b.member m).state)
        ∧ ∃ d', (after .gone).discovery = some d' ∧ (d'.member m).probe = .absent
          ∧ (after .gone).member m =
              { state := .empty, capacity := 0, currentColumn := none, targetColumn := none, media := 0, best := none }
          ∧ ∀ c ∈ d'.candidates, ∀ x ∈ c.copies, x.1 ≠ m

/-- The choice event (R168 to R175). With no chosen record the volume is UNFORMED and discovery is over. With one, every
member takes its role, its columns and its capacity, the health of both layouts is computed anew, alert cause MEMBER is
set when a column is STALE or FAILED, and the engine has the record's values; what the line shows of the descriptors while
discovery goes on is the statement on read requests (log entry 22). A needed layout that is BROKEN makes the engine FAILED
and ends discovery; one that is DEGRADED sets a hold request. A STABLE volume is IDLE. An INITIALIZING one is in FILL. An
EXPANDING one redoes row CM in slot A in RECOVER, or, with a stage record, reads the stage copy into slot A with discovery
going on, and is FAILED with the stage-loss mark when the stage member is not ONLINE. With CM = R the engine is in FILL and
the final checkpoint is started, under the chosen generation plus one below 2^64 − 1 (log entry 25). That a BROKEN needed layout leaves no
stage-loss mark, whatever the stage member, is the model's choice (log entry 26). -/
def Obligations.DiscoveryAdoptsRecord : Prop :=
  (∀ (b : Bridge) (d : Discovery), b.discovery = some d → d.choice = none →
      b.choose = { b with engine := { b.engine with volume := .unformed }, discovery := none })
  ∧ ∀ (b : Bridge) (d : Discovery) (c : Candidate) (r : Record), b.discovery = some d → d.choice = some c →
      readRecord c.block = some r → b.shaped →
      let b' := b.choose
      let e' := b'.engine
      let needed := e'.neededIn r.volume
      let broken : Prop := ∃ l ∈ needed, b'.health l = .broken
      let hold := if ∃ l ∈ needed, b'.health l = .degraded then some HoldCause.member else b.engine.hold
      let columns := fun m => m ∈ r.current.members ∨ ∃ t, r.target = some t ∧ m ∈ t.members
      (∀ m < 96,
          let old := b.member m
          let new := b'.member m
          let large : Prop := 1024 + r.current.rows * r.current.chunk ≤ old.capacity
          new.media = 0 ∧ new.best = old.best
            ∧ (d.answered m = true → new.capacity = old.capacity) ∧ (d.answered m = false → new.capacity = 0)
            ∧ (columns m → d.answered m = true → m ∈ c.holders → large → new.state = .online)
            ∧ (columns m → d.answered m = true → ¬(m ∈ c.holders ∧ large) → new.state = .stale)
            ∧ (columns m → d.answered m = false → new.state = .failed)
            ∧ (¬columns m → d.answered m = true → new.state = .present)
            ∧ (¬columns m → d.answered m = false → new.state = .empty)
            ∧ (∀ i, r.current.members[i]? = some m → new.currentColumn = some i)
            ∧ (m ∉ r.current.members → new.currentColumn = none)
            ∧ (∀ t i, r.target = some t → t.members[i]? = some m → new.targetColumn = some i)
            ∧ ((∀ t, r.target = some t → m ∉ t.members) → new.targetColumn = none))
        ∧ b'.health .current = layoutHealth b'.members (some r.current)
        ∧ b'.health .target = layoutHealth b'.members r.target
        ∧ (∀ m < 96, (b'.member m).state = .failed ∨ (b'.member m).state = .stale → b'.causes.getLsbD 1 = true)
        ∧ e'.current = some r.current ∧ e'.target = r.target ∧ e'.doneMark = r.mark ∧ e'.checkMark = r.mark
        ∧ e'.durable = some { generation := r.generation, mark := r.mark, stage := r.stage }
        ∧ (broken → e'.state = .failed ∧ e'.volume = r.volume ∧ b'.discovery = none ∧ b'.causes.getLsbD 4 = true
            ∧ e'.slotA = b.engine.slotA ∧ e'.generation = r.generation ∧ e'.stageLoss = b.engine.stageLoss)
        ∧ (r.volume = .stable → e'.state = .idle ∧ e'.volume = .stable ∧ b'.discovery = none
            ∧ e'.generation = r.generation ∧ e'.slotA = b.engine.slotA)
        ∧ (¬broken → r.volume = .initializing → r.mark < r.current.rows →
            e'.state = .fill ∧ e'.volume = .initializing ∧ b'.discovery = none ∧ e'.hold = hold
              ∧ e'.generation = r.generation)
        ∧ (¬broken → r.volume = .expanding → r.stage = none → r.mark < r.current.rows →
            e'.state = .recover ∧ e'.volume = .expanding ∧ b'.discovery = none ∧ e'.hold = hold
              ∧ e'.generation = r.generation ∧ e'.slotA.row = some r.mark ∧ e'.slotB = b.engine.slotB
              ∧ (∀ kc, e'.lastCopyRow = some kc → (r.mark ≤ kc → e'.slotA.state = .gather)
                  ∧ (kc < r.mark → e'.slotA.state = .full)))
        ∧ (¬broken → r.volume ≠ .stable → r.mark = r.current.rows →
            b'.discovery = none ∧ e'.volume = r.volume
              ∧ (r.generation ≠ BitVec.allOnes 64 → e'.generation = r.generation + 1)
              ∧ e'.state = .fill ∧ e'.checkpoint.map Checkpoint.kind = some .final
              ∧ (∃ x : Bridge, b' = x.startCheckpoint .final none ∧ x.members = b'.members
                  ∧ x.engine.generation = r.generation ∧ x.engine.current = some r.current ∧ x.engine.target = r.target)
              ∧ e'.slotA = b.engine.slotA)
        ∧ ∀ (t : Descriptor) (row column : Nat), ¬broken → r.target = some t → r.stage = some (row, column) →
            let m := t.members.getD column 0
            let n := t.members.length - 1
            let reads : List DriveCommand := (List.range n).map (fun i =>
              { kind := .dread, member := m, block := 16 + i * r.current.chunk, count := r.current.chunk, payload := []
                issuer := .stageRead i })
            ((b'.member m).state = .online →
                e'.state = .recover ∧ e'.volume = b.engine.volume ∧ e'.hold = hold ∧ e'.slotA.state = .gather
                  ∧ e'.slotA.row = some row ∧ e'.slotA.gathers = n ∧ e'.slotA.present = List.replicate n false
                  ∧ b'.discovery.map Discovery.stageReads = some (some n)
                  ∧ ((b'.shelf (m / 16)).migration = (b.shelf (m / 16)).migration ++ reads
                        ∧ b'.migrationWait = b.migrationWait
                      ∨ b'.shelves = b.shelves ∧ b'.migrationWait = b.migrationWait ++ [reads]))
              ∧ ((b'.member m).state ≠ .online →
                e'.state = .failed ∧ e'.stageLoss = some row ∧ e'.volume = .expanding ∧ b'.discovery = none
                  ∧ b'.causes.getLsbD 4 = true ∧ e'.slotA.state = .gather ∧ e'.slotA.row = some row)

/-- The end of a read of a stage copy (R172, R173). DGOOD places its blocks in slot A; with the last one the slot is in
WRITING with its parity built and its write-out issued, and discovery is over. DMEDIA, and a read that ended as failed,
make the engine FAILED with the stage-loss mark on row DM, slot A as it stood, and discovery is over. After that an
outcome is discarded. -/
def Obligations.StageReadEnds : Prop :=
  ∀ (b : Bridge) (p : Nat),
    (b.discovery = none → ∀ ending, b.stageReadEnded p ending = b)
      ∧ (b.discovery ≠ none → b.engine.state ≠ .failed → ∀ ending, ending = .media ∨ ending = .failed →
          let b' := b.stageReadEnded p ending
          b'.engine.state = .failed ∧ b'.engine.stageLoss = some b.engine.doneMark ∧ b'.engine.volume = .expanding
            ∧ b'.engine.slotA = b.engine.slotA ∧ b'.discovery = none ∧ b'.causes = b.causes ||| 0x10)
      ∧ (b.discovery ≠ none → ∀ blocks,
          let b' := b.stageReadEnded p (.good blocks)
          let a := b.engine.slotA
          let data := a.data.set p blocks
          let last : Prop := a.state = .gather ∧ a.gathers ≤ 1 ∧ ∀ x ∈ a.present.set p true, x = true
          let layout := b.engine.writtenLayout
          let live := (List.range (b.layoutColumns layout)).filter (fun c =>
            !b.memberFailed (b.columnMember layout c))
          (a.state = .gather → ¬last →
              b'.engine.slotA = { a with data := data, present := a.present.set p true, gathers := a.gathers - 1 }
                ∧ b'.engine.volume = b.engine.volume ∧ b'.discovery ≠ none ∧ b'.work = b.work)
            ∧ (last → b.router.inCurrent = [] → b.health layout ≠ .broken →
              b'.engine.slotA.state = .writing ∧ b'.engine.slotA.data = data
                ∧ b'.engine.slotA.parity = some (xorAll b.engine.chunk data)
                ∧ b'.engine.slotA.writes = live.length
                ∧ b'.engine.volume = .expanding ∧ b'.engine.state = b.engine.state ∧ b'.discovery = none)
            ∧ (last → b.router.inCurrent = [] → b.health layout = .broken → b.engine.state ≠ .failed →
              b'.engine.state = .failed ∧ b'.engine.volume = .expanding ∧ b'.discovery = none))

/-! The management line (chapter 10). -/

/-- The address byte of a frame and the first control byte of a read request (R179, R182): 0x58 is acknowledged when a
receive buffer is empty, which is then filling; an address other than
0x58 and 0x59, and 0x58 with no receive buffer empty, is not, and nothing else changes; the first control byte
of a read request releases the buffer and is acknowledged only if a transmit buffer is empty. The lines are idle before an
address byte. The stop of a write frame whose address byte was acknowledged (R179): an address byte alone leaves nothing;
one or two control bytes are counted as a frame error; three or more are a complete frame that waits, its bytes beyond 36
dropped. -/
def Obligations.LineBytesAndWriteFrameTaken : Prop :=
  ((∀ (a : Byte) (s : State), s.mgmt.line = .idle →
        (a = 0x58 → s.mgmt.waiting.length < 2 →
            exec (.lineAddressByte a) s = .next { s.withBridge { s.bridge with sent := [.lineAck true 1] } with
              mgmt := { s.mgmt with line := .filling } })
          ∧ (a = 0x58 → 2 ≤ s.mgmt.waiting.length →
            exec (.lineAddressByte a) s = .next (s.withBridge { s.bridge with sent := [.lineAck false 1] }))
          ∧ (a ≠ 0x58 → a ≠ 0x59 →
            exec (.lineAddressByte a) s = .next (s.withBridge { s.bridge with sent := [.lineAck false 1] })))
      ∧ ∀ (c : Byte) (s : State), s.mgmt.line = .filling → c.getLsbD 7 = true →
          (s.mgmt.replies.length < 2 →
            exec (.readRequestControlByte c) s = .next { s.withBridge { s.bridge with sent := [.lineAck true 1] } with
              mgmt := { s.mgmt with line := .readControl c } })
          ∧ (2 ≤ s.mgmt.replies.length →
            exec (.readRequestControlByte c) s = .next { s.withBridge { s.bridge with sent := [.lineAck false 1] } with
              mgmt := { s.mgmt with line := .idle } }))
  ∧ ∀ (bytes : List Byte) (s : State), s.mgmt.line = .filling → (∀ c, bytes.head? = some c → c.getLsbD 7 = false) →
      (bytes = [] →
          exec (.writeFrame bytes) s = .next { s.withBridge { s.bridge with sent := [] } with
            mgmt := { s.mgmt with line := .idle } })
        ∧ (1 ≤ bytes.length → bytes.length ≤ 2 →
          exec (.writeFrame bytes) s = .next { s.withBridge { s.bridge with sent := [.lineAck true bytes.length] } with
            mgmt := { s.mgmt with line := .idle, frameErrors := s.mgmt.frameErrors + 1 } })
        ∧ (3 ≤ bytes.length →
          exec (.writeFrame bytes) s = .next { s.withBridge { s.bridge with sent := [.lineAck true bytes.length] } with
            mgmt :=
              { s.mgmt with
                line := .idle
                waiting := s.mgmt.waiting ++ [{ bytes := bytes.take 36, overlong := 36 < bytes.length }] } })

/-- A read request whose control word is complete has the waiting write frames processed first, oldest first (R180), and
then, unless one of them was a RESTART, which by the model's choice takes the read request with it (log entry 27), fills
a transmit buffer with a reply of L bytes, taken as the spaces stand then (R182): those from the index of a space's
block, zero past its end, or of the entry of the member that the index names. The blocks are the settings (R185), the
status (R186), the entry of a member, the staged descriptor, the capture record, and the current and the target
descriptor, each of 32 bytes (R187), a descriptor that is not present (R2), and by log entry 22 every one until
discovery ends, zeros. The command space and the spaces that do not exist read as zeros, as do the members that do not
exist. States, modes and results are given by the codes of R184. -/
def Obligations.ReadRequestReplied : Prop :=
  ([VolumeState.discovering, .unformed, .initializing, .stable, .expanding].map VolumeState.code = [0, 1, 2, 3, 4]
    ∧ [EngineState.idle, .copy, .fill, .held, .recover, .failed].map EngineState.code = [0, 1, 2, 3, 4, 5]
    ∧ [MemberState.empty, .present, .online, .failed, .stale].map MemberState.code = [0, 1, 2, 3, 4]
    ∧ [Health.absent, .ok, .degraded, .broken].map Health.code = [0, 1, 2, 3]
    ∧ [Pacing.normal, .yield].map Pacing.code = [0, 1]
    ∧ (∀ n, [CommandState.idle, .executing n].map CommandState.code = [0, 1])
    ∧ [CommandResult.blank, .ok, .refusedState, .invalidDesc, .busy].map CommandResult.code = [0, 1, 2, 3, 4])
  ∧ ∀ (control high low : Byte) (s t : State), s.mgmt.line = .readControl control →
    t = Nat.iterate State.processOldest s.mgmt.waiting.length
      { s with bridge := { s.bridge with sent := [.lineAck true 2] } } →
    (s.mgmt.waiting = [] → t = { s with bridge := { s.bridge with sent := [.lineAck true 2] } })
    ∧ (t.mgmt.line ≠ .readControl control → exec (.readRequest high low) s = .next (t.withBridge t.bridge))
    ∧ (t.mgmt.line = .readControl control → ∃ data : List Byte,
      exec (.readRequest high low) s = .next { t.withBridge t.bridge with
          mgmt :=
            { t.mgmt with
              line := .idle, replies := t.mgmt.replies ++ [{ control := [control, high, low], data := data }] } }
        ∧ data.length = 4 * 2 ^ (control.extractLsb' 4 2).toNat
        ∧ (let space := (control.extractLsb' 0 4).toNat
          let index := 256 * high.toNat + low.toNat
          let reads : List Byte → Nat → Prop := fun block start =>
            ∀ i < data.length, data[i]? = some (block.getD (start + i) 0)
          let c := t.mgmt.settings
          let e := t.bridge.engine
          let r := t.bridge.command
          let descriptor : Option Descriptor → List Byte := fun d =>
            match d with
            | some d =>
                [BitVec.ofNat 8 d.members.length, BitVec.ofNat 8 d.chunk] ++ leBytes 6 d.rows
                  ++ d.members.map (BitVec.ofNat 8) ++ List.replicate (24 - d.members.length) 0
            | none => List.replicate 32 0
          (space = 0 → reads
              ([if c.checkEnable then 1 else 0, if c.checkMode = .persistent then 1 else 0, BitVec.ofNat 8 c.cmdTimeout
                , BitVec.ofNat 8 c.retryLimit, BitVec.ofNat 8 c.mediaLimit, BitVec.ofNat 8 c.yieldEnter
                , BitVec.ofNat 8 c.yieldExit, BitVec.ofNat 8 c.weight] ++ leBytes 2 c.starveLimit
                ++ leBytes 2 c.cpInterval ++ [c.alertEnable.setWidth 8]) index)
            ∧ (space = 1 → reads
              ([BitVec.ofNat 8 e.volume.code, BitVec.ofNat 8 e.state.code, BitVec.ofNat 8 t.bridge.pacing.code
                , BitVec.ofNat 8 r.state.code, BitVec.ofNat 8 r.code, BitVec.ofNat 8 r.result.code, r.sequence
                , t.bridge.causes.setWidth 8, BitVec.ofNat 8 t.bridge.port.foreground
                , BitVec.ofNat 8 (t.bridge.health .current).code, BitVec.ofNat 8 (t.bridge.health .target).code, 0]
                ++ leBytes 6 e.doneMark ++ leBytes 6 e.checkMark ++ leBytes 8 e.generation.toNat
                ++ leBytes 6 ((e.current.map Descriptor.rows).getD 0) ++ leBytes 2 t.bridge.port.captures.toNat
                ++ leBytes 2 t.mgmt.frameErrors.toNat) index)
            ∧ (space = 2 → index < 96 →
              let m := t.bridge.member index
              reads
                ([BitVec.ofNat 8 m.state.code, BitVec.ofNat 8 (m.currentColumn.getD 255)
                  , BitVec.ofNat 8 (m.targetColumn.getD 255), BitVec.ofNat 8 m.media] ++ leBytes 6 m.capacity
                  ++ List.replicate 6 0 ++ leBytes 8 ((m.best.map BitVec.toNat).getD 0)) 0)
            ∧ (space = 3 → reads
              ([t.mgmt.staged.columns, t.mgmt.staged.chunk] ++ List.replicate 6 0 ++ t.mgmt.staged.members) index)
            ∧ (∀ x, space = 5 → t.bridge.port.capture = some x → reads
              ([if x.cause = .check then 1 else 2, if x.overrun then 1 else 0, x.computed, 0] ++ x.header) index)
            ∧ (space = 5 → t.bridge.port.capture = none → ∀ x ∈ data, x = 0)
            ∧ (space = 6 → e.volume ≠ .discovering →
              (∀ d, e.current = some d ∨ e.target = some d → d.members.length ≤ 24) →
              reads (descriptor e.current ++ descriptor e.target) index)
            ∧ (space = 6 → e.volume = .discovering → ∀ x ∈ data, x = 0)
            ∧ (space = 2 → 96 ≤ index → ∀ x ∈ data, x = 0)
            ∧ (space = 4 ∨ 7 ≤ space → ∀ x ∈ data, x = 0)))

/-- The fetch of a reply (R182): the oldest unconsumed reply is sent as far as the master clocks it, its CRC after its data
when its check flag is set and 0xFF past its end, and it is consumed; with none, 0x59 is not acknowledged. -/
def Obligations.ReplyFetched : Prop :=
  ∀ (n : Nat) (s : State), s.mgmt.line = .idle →
    (s.mgmt.replies = [] →
        exec (.replyFetch n) s = .next (s.withBridge { s.bridge with sent := [.lineAck false 1] }))
      ∧ ∀ (c : Byte) (control data : List Byte) (rest : List Reply),
          s.mgmt.replies = { control := c :: control, data := data } :: rest →
          let bytes := if c.getLsbD 6 then data ++ [crc8 (0x58 :: (c :: control) ++ [0x59] ++ data)] else data
          exec (.replyFetch n) s = .next
            { s.withBridge { s.bridge with sent :=
                [.lineAck true 1, .lineBytes ((List.range n).map (fun i => bytes.getD i 0xFF))] } with
              mgmt := { s.mgmt with replies := rest } }

/-- A frame to space 0 stores the settings it covers, clamped, and no other; alert_enable acts on the alert line in the
same event (R185, R157, R195). -/
def Obligations.SettingsStored : Prop :=
  ∀ (s : State) (f : WriteFrame) (rest : List WriteFrame), s.mgmt.waiting = f :: rest → f.row = .settings →
    ∃ c : Settings,
      exec .settingsWrite s = .next
          { s with
            mgmt := { s.mgmt with waiting := rest, settings := c }, bridge := { s.bridge with sent := [] }
            alertLine := alertActive c.alertEnable s.bridge.causes }
        ∧ (let old := s.mgmt.settings;
          let byte := fun o => (f.data.getD (o - f.index) 0).toNat
          let has := fun o => f.index ≤ o ∧ o < f.index + f.data.length
          (has 0 → (c.checkEnable = true ↔ byte 0 ≠ 0)) ∧ (¬has 0 → c.checkEnable = old.checkEnable)
            ∧ (has 1 → (c.checkMode = .strict ↔ byte 1 = 0)) ∧ (¬has 1 → c.checkMode = old.checkMode)
            ∧ (has 2 → c.cmdTimeout = max 1 (byte 2)) ∧ (¬has 2 → c.cmdTimeout = old.cmdTimeout)
            ∧ (has 3 → c.retryLimit = min 7 (byte 3)) ∧ (¬has 3 → c.retryLimit = old.retryLimit)
            ∧ (has 4 → c.mediaLimit = max 1 (byte 4)) ∧ (¬has 4 → c.mediaLimit = old.mediaLimit)
            ∧ (has 7 → c.weight = max 1 (min 16 (byte 7))) ∧ (¬has 7 → c.weight = old.weight)
            ∧ (has 8 → has 9 → c.starveLimit = max 1 (min 1000 (byte 8 + 256 * byte 9)))
            ∧ (has 8 → ¬has 9 → c.starveLimit = max 1 (min 1000 (byte 8 + 256 * (old.starveLimit / 256))))
            ∧ (¬has 8 → has 9 → c.starveLimit = max 1 (min 1000 (old.starveLimit % 256 + 256 * byte 9)))
            ∧ (¬has 8 → ¬has 9 → c.starveLimit = old.starveLimit)
            ∧ (has 10 → has 11 → c.cpInterval = max 1 (min 4096 (byte 10 + 256 * byte 11)))
            ∧ (has 10 → ¬has 11 → c.cpInterval = max 1 (min 4096 (byte 10 + 256 * (old.cpInterval / 256))))
            ∧ (¬has 10 → has 11 → c.cpInterval = max 1 (min 4096 (old.cpInterval % 256 + 256 * byte 11)))
            ∧ (¬has 10 → ¬has 11 → c.cpInterval = old.cpInterval)
            ∧ (has 12 → c.alertEnable = BitVec.ofNat 5 (byte 12)) ∧ (¬has 12 → c.alertEnable = old.alertEnable))

/-- The values of yield_enter and yield_exit after reset, and their clamps in every settings write: in the event that takes
the frame, without a frame error, and read back as they are stored (R154). -/
def Obligations.YieldClamp : Prop :=
  State.reset.mgmt.settings.yieldEnter = 48 ∧ State.reset.mgmt.settings.yieldExit = 16
    ∧ ∀ (s : State) (f : WriteFrame) (rest : List WriteFrame),
      s.mgmt.waiting = f :: rest → f.row = .settings → s.mgmt.settings.inRange = true →
      ∃ t : State, exec .settingsWrite s = .next t ∧
        (let c := s.mgmt.settings;
        let c' := t.mgmt.settings
        let byte := fun o => (f.data.getD (o - f.index) 0).toNat
        let has := fun o => f.index ≤ o ∧ o < f.index + f.data.length
        let exit := if has 6 then byte 6 else c.yieldExit
        (has 5 → byte 5 = 0 → c'.yieldEnter = 1)
          ∧ (has 5 → 128 < byte 5 → c'.yieldEnter = 128)
          ∧ (has 5 → 1 ≤ byte 5 → byte 5 ≤ 128 → c'.yieldEnter = byte 5)
          ∧ (¬has 5 → c'.yieldEnter = c.yieldEnter)
          ∧ (has 5 ∨ has 6 → c'.yieldEnter ≤ exit → c'.yieldExit = c'.yieldEnter - 1)
          ∧ (has 5 ∨ has 6 → exit < c'.yieldEnter → c'.yieldExit = exit)
          ∧ (¬has 5 → ¬has 6 → c'.yieldExit = c.yieldExit)
          ∧ 1 ≤ c'.yieldEnter ∧ c'.yieldEnter ≤ 128 ∧ c'.yieldExit ≤ 127 ∧ c'.yieldExit < c'.yieldEnter
          ∧ t.mgmt.frameErrors = s.mgmt.frameErrors
          ∧ t.spaceBytes 0 5 2 = [BitVec.ofNat 8 c'.yieldEnter, BitVec.ofNat 8 c'.yieldExit])

/-- A frame to space 3 stores its bytes untested: byte 0 is N, byte 1 is C, bytes 2 to 7 are dropped, and byte 8 + i is
entry i (R187). -/
def Obligations.StagedDescriptorStored : Prop :=
  ∀ (s : State) (f : WriteFrame) (rest : List WriteFrame), s.mgmt.waiting = f :: rest → f.row = .staged →
    s.mgmt.staged.members.length = 24 →
    ∃ d : StagedDescriptor,
      exec .stagedDescriptorWrite s = .next { s with
          mgmt := { s.mgmt with waiting := rest, staged := d }, bridge := { s.bridge with sent := [] }
          alertLine := alertActive s.mgmt.settings.alertEnable s.bridge.causes }
        ∧ (let byte := fun o old => if f.index ≤ o ∧ o < f.index + f.data.length then f.data.getD (o - f.index) 0 else old;
          d.columns = byte 0 s.mgmt.staged.columns ∧ d.chunk = byte 1 s.mgmt.staged.chunk
            ∧ d.members.length = 24
            ∧ ∀ i < 24, d.members.getD i 0 = byte (8 + i) (s.mgmt.staged.members.getD i 0))

/-- A frame that fails a test of R181 is discarded and counted, with nothing applied and the command record unchanged: one of
the wrong length, of a wrong CRC, to a space that takes no writes, beyond its block, with an unknown code, or with
too few data bytes for its command (R181, R183). -/
def Obligations.FrameDiscardedCounted : Prop :=
  ∀ (s : State) (f : WriteFrame) (rest : List WriteFrame), s.mgmt.waiting = f :: rest →
    let c := f.bytes.getD 0 0
    let l := 4 * 2 ^ (c.extractLsb' 4 2).toNat
    let space := (c.extractLsb' 0 4).toNat
    let index := 256 * (f.bytes.getD 1 0).toNat + (f.bytes.getD 2 0).toNat
    let code := (f.bytes.getD 3 0).toNat
    (f.overlong = true ∨ f.bytes.length ≠ 3 + l + (if c.getLsbD 6 then 1 else 0)
      ∨ (c.getLsbD 6 = true ∧ crc8 (0x58 :: f.bytes.take (3 + l)) ≠ f.bytes.getD (3 + l) 0)
      ∨ (space ≠ 0 ∧ space ≠ 3 ∧ space ≠ 4)
      ∨ (space = 0 ∧ 16 < index + l) ∨ (space = 3 ∧ 32 < index + l) ∨ (space = 4 ∧ index ≠ 0)
      ∨ (space = 4 ∧ (code = 0 ∨ 9 < code ∨ code = 2 ∧ l < 16))) →
      exec .discardedWriteFrame s = .next { s with
        mgmt := { s.mgmt with waiting := rest, frameErrors := s.mgmt.frameErrors + 1 }
        bridge := { s.bridge with sent := [] }
        alertLine := alertActive s.mgmt.settings.alertEnable s.bridge.causes }

/-- While ADMIT executes every command is refused BUSY, which is recorded and has no other effect (R188). The commands that
are refused with REFUSED_STATE, which is recorded and has no other effect: the six of R188 while the volume is
DISCOVERING, CREATE unless UNFORMED, START unless STABLE, PAUSE with the engine IDLE or FAILED, RESUME with no hold or a
needed layout BROKEN, CANCEL with a condition of R91 not met (R88 to R91, R189, R190). -/
def Obligations.CommandsBusyOrRefused : Prop :=
  (∀ (i : Instr) (row : FrameRow) (code : Nat) (s : State) (f : WriteFrame) (rest : List WriteFrame) (n : Nat),
    (i, row, code) ∈ [(Instr.create, FrameRow.create, 1), (.admitMembers, .admitMembers, 2), (.start, .start, 3),
      (.pause, .pause, 4), (.resume, .resume, 5), (.cancel, .cancel, 6), (.ack, .ack, 7), (.clearCapture, .clearCapture, 8),
      (.restart, .restart, 9)] →
    s.mgmt.waiting = f :: rest → f.row = row → s.bridge.command.state = .executing n →
      exec i s = .next (s.afterFrame rest ({ s.bridge with sent := [] }.recorded code .busy)))
  ∧ ∀ (i : Instr) (row : FrameRow) (code : Nat) (s : State) (f : WriteFrame) (rest : List WriteFrame),
    (i, row, code) ∈ [(Instr.create, FrameRow.create, 1), (.admitMembers, .admitMembers, 2), (.start, .start, 3),
      (.pause, .pause, 4), (.resume, .resume, 5), (.cancel, .cancel, 6)] →
    s.mgmt.waiting = f :: rest → f.row = row → s.bridge.command.state = .idle →
    (s.bridge.engine.volume = .discovering
      ∨ (i = .create ∧ s.bridge.engine.volume ≠ .unformed)
      ∨ (i = .start ∧ s.bridge.engine.volume ≠ .stable)
      ∨ (i = .pause ∧ (s.bridge.engine.state = .idle ∨ s.bridge.engine.state = .failed))
      ∨ (i = .resume ∧ ((s.bridge.engine.state ≠ .held ∧ s.bridge.engine.hold = none)
          ∨ ∃ l ∈ s.bridge.engine.neededLayouts, s.bridge.health l = .broken))
      ∨ (i = .cancel ∧ (s.bridge.engine.volume ≠ .expanding ∨ s.bridge.engine.doneMark ≠ 0
          ∨ (s.bridge.engine.state ≠ .copy ∧ s.bridge.engine.state ≠ .held)
          ∨ (∃ j, (s.bridge.engine.slot j).state = .staging ∨ (s.bridge.engine.slot j).state = .writing)
          ∨ s.bridge.engine.checkpoint ≠ none
          ∨ ∃ d, s.bridge.engine.durable = some d ∧ d.stage ≠ none))) →
      exec i s = .next (s.afterFrame rest ({ s.bridge with sent := [] }.recorded code .refusedState))

/-- CREATE and START refuse a staged descriptor that fails their test with INVALID_DESC, which is recorded and has no
other effect: an N outside 3 to 24, a C that is not one of the six, a member number above 95 or twice, for CREATE a
member that is not PRESENT or an R below 1, a capacity R × (N − 1) × C of 2^48 or more, and for START what R13 asks of
the relation and of the added members (R1, R4, R5, R13, R189, R190). -/
def Obligations.DescriptorRefused : Prop :=
  ∀ (s : State) (f : WriteFrame) (rest : List WriteFrame), s.mgmt.waiting = f :: rest →
    s.bridge.command.state = .idle →
    let d := s.mgmt.staged
    let list := (d.members.take d.columns.toNat).map BitVec.toNat
    let malformed : Prop := d.columns.toNat < 3 ∨ 24 < d.columns.toNat ∨ d.chunk.toNat ∉ [1, 2, 4, 8, 16, 32]
      ∨ (∃ m ∈ list, 96 ≤ m) ∨ ¬list.Nodup
    let rows := (smallest (list.map (fun m => (s.bridge.member m).capacity)) - 1024) / d.chunk.toNat
    (f.row = .create → s.bridge.engine.volume = .unformed →
      (malformed ∨ (∃ m ∈ list, (s.bridge.member m).state ≠ .present) ∨ rows = 0
        ∨ 2 ^ 48 ≤ rows * (list.length - 1) * d.chunk.toNat) →
        exec .create s = .next (s.afterFrame rest ({ s.bridge with sent := [] }.recorded 1 .invalidDesc)))
      ∧ ∀ cur : Descriptor, s.bridge.engine.current = some cur → f.row = .start → s.bridge.engine.volume = .stable →
        (malformed ∨ d.chunk.toNat ≠ cur.chunk ∨ list.length ≤ cur.members.length
          ∨ list.take cur.members.length ≠ cur.members
          ∨ 2 ^ 48 ≤ cur.rows * (list.length - 1) * d.chunk.toNat
          ∨ ∃ m ∈ list.drop cur.members.length,
              (s.bridge.member m).state ≠ .present
                ∨ (s.bridge.member m).capacity < 1024 + cur.rows * cur.chunk) →
        exec .start s = .next (s.afterFrame rest ({ s.bridge with sent := [] }.recorded 3 .invalidDesc))

/-- CREATE taken (R85, R189, R145): with the volume UNFORMED and a staged descriptor that is well formed over PRESENT
members, the result OK is recorded and the rest of the event runs on a state in which the staged descriptor is current
with the R of R4, the volume INITIALIZING, the engine in FILL with both marks 0, its members ONLINE in their columns, the
health of the current layout OK and that of the target none (R120), and the opening checkpoint started, as the statement
on the start of a checkpoint gives, and in flight under the next generation, which is the counter plus one below
2^64 − 1 (log entry 25). -/
def Obligations.CreateTaken : Prop :=
  ∀ (s : State) (f : WriteFrame) (rest : List WriteFrame), s.mgmt.waiting = f :: rest → f.row = .create →
    s.bridge.command.state = .idle → s.bridge.engine.volume = .unformed →
    let d := s.mgmt.staged
    let list := (d.members.take d.columns.toNat).map BitVec.toNat
    let rows := (smallest (list.map (fun m => (s.bridge.member m).capacity)) - 1024) / d.chunk.toNat
    let desc : Descriptor := { chunk := d.chunk.toNat, rows := rows, members := list }
    3 ≤ d.columns.toNat → d.columns.toNat ≤ 24 → desc.wellFormed = true →
    (∀ m ∈ list, (s.bridge.member m).state = .present) →
      ∃ b c : Bridge,
        exec .create s = .next (s.afterFrame rest (b.settle s.mgmt.settings))
          ∧ b = (c.startCheckpoint .openingCreate none).recorded 1 .ok
          ∧ c = { s.bridge with
              sent := [], members := b.members
              engine := { s.bridge.engine with
                current := some desc, target := none, volume := .initializing, doneMark := 0, checkMark := 0, state := .fill }
              parity := { s.bridge.parity with healthCurrent := .ok, healthTarget := .absent } }
          ∧ b.health .current = .ok ∧ b.health .target = .absent
          ∧ b.engine.current = some desc ∧ b.engine.volume = .initializing ∧ b.engine.state = .fill
          ∧ b.engine.doneMark = 0 ∧ b.engine.checkMark = 0
          ∧ (s.bridge.engine.generation ≠ BitVec.allOnes 64 →
              b.engine.generation = s.bridge.engine.generation + 1)
          ∧ (b.engine.checkpoint.map Checkpoint.kind = some .openingCreate)
          ∧ (∀ i m, list[i]? = some m → (b.member m).state = .online ∧ (b.member m).currentColumn = some i)
          ∧ (∀ m ∈ list, (b.member m).targetColumn = (s.bridge.member m).targetColumn
              ∧ (b.member m).capacity = (s.bridge.member m).capacity)
          ∧ (∀ m, m ∉ list → b.member m = s.bridge.member m)
          ∧ b.router = s.bridge.router ∧ b.pacing = s.bridge.pacing ∧ b.causes = s.bridge.causes
          ∧ b.command = { state := .idle, code := 1, result := .ok, sequence := s.bridge.command.sequence + 1 }
          ∧ b.port = s.bridge.port

/-- START taken (R86, R190, R145): with the volume STABLE, at most one current member not ONLINE, and a staged descriptor
that relates to the current one as R13 gives over added members that are PRESENT and large enough, the result OK is
recorded and the rest of the event runs on a state in which the staged descriptor is the target with the current R, the
volume EXPANDING, the engine in COPY with both marks 0, the added members ONLINE in their target columns, the health of
both layouts that of their columns (R120), and the opening checkpoint started, as the statement on the start of a
checkpoint gives, and in flight under the next generation, which is the counter plus one below 2^64 − 1 (log entry
25). -/
def Obligations.StartTaken : Prop :=
  ∀ (s : State) (f : WriteFrame) (rest : List WriteFrame) (cur : Descriptor), s.mgmt.waiting = f :: rest →
    f.row = .start → s.bridge.command.state = .idle → s.bridge.engine.volume = .stable →
    s.bridge.engine.current = some cur → 1 ≤ cur.members.length →
    cur.members.length ≤ (cur.members.filter s.bridge.memberOnline).length + 1 →
    let d := s.mgmt.staged
    let list := (d.members.take d.columns.toNat).map BitVec.toNat
    let desc : Descriptor := { chunk := d.chunk.toNat, rows := cur.rows, members := list }
    3 ≤ d.columns.toNat → d.columns.toNat ≤ 24 → desc.wellFormed = true → desc.chunk = cur.chunk →
    cur.members.length < list.length → list.take cur.members.length = cur.members →
    (∀ m ∈ list.drop cur.members.length,
      (s.bridge.member m).state = .present ∧ 1024 + cur.rows * cur.chunk ≤ (s.bridge.member m).capacity) →
      ∃ b c : Bridge,
        exec .start s = .next (s.afterFrame rest (b.settle s.mgmt.settings))
          ∧ b = (c.startCheckpoint .openingStart none).recorded 3 .ok
          ∧ c = { s.bridge with
              sent := [], members := b.members
              engine := { s.bridge.engine with
                target := some desc, volume := .expanding, doneMark := 0, checkMark := 0, state := .copy }
              parity := { s.bridge.parity with
                healthCurrent := layoutHealth b.members (some cur), healthTarget := layoutHealth b.members (some desc) } }
          ∧ b.health .current = layoutHealth b.members (some cur)
          ∧ b.health .target = layoutHealth b.members (some desc)
          ∧ b.engine.target = some desc ∧ b.engine.current = some cur ∧ b.engine.volume = .expanding
          ∧ b.engine.state = .copy ∧ b.engine.doneMark = 0 ∧ b.engine.checkMark = 0
          ∧ (s.bridge.engine.generation ≠ BitVec.allOnes 64 →
              b.engine.generation = s.bridge.engine.generation + 1)
          ∧ (b.engine.checkpoint.map Checkpoint.kind = some .openingStart)
          ∧ (∀ i m, cur.members.length ≤ i → list[i]? = some m →
              (b.member m).state = .online ∧ (b.member m).targetColumn = some i)
          ∧ (∀ i m, i < cur.members.length → list[i]? = some m → m < s.bridge.members.length →
              b.member m = { s.bridge.member m with targetColumn := some i })
          ∧ (∀ m, m ∉ list → b.member m = s.bridge.member m)
          ∧ b.router = s.bridge.router ∧ b.pacing = s.bridge.pacing ∧ b.causes = s.bridge.causes
          ∧ b.command = { state := .idle, code := 3, result := .ok, sequence := s.bridge.command.sequence + 1 }
          ∧ b.port = s.bridge.port

/-- ADMIT (R149, R151, R188): with no named member that is EMPTY or PRESENT and without a column it ends OK at once; with
some, the command state is EXECUTING with as many probes, its code recorded with no result and the sequence number
unchanged, and one DPROBE step for each goes out in ascending order. -/
def Obligations.AdmitTaken : Prop :=
  ∀ (s : State) (f : WriteFrame) (rest : List WriteFrame), s.mgmt.waiting = f :: rest → f.row = .admitMembers →
    s.bridge.command.state = .idle → s.bridge.engine.volume ≠ .discovering →
    let named := (List.range 96).filter (fun m =>
      ((f.data.getD (1 + m / 8) 0).getLsbD (m % 8))
        && ((s.bridge.member m).state == .empty || (s.bridge.member m).state == .present)
        && (s.bridge.member m).currentColumn.isNone && (s.bridge.member m).targetColumn.isNone)
    (named = [] →
        exec .admitMembers s = .next (s.afterFrame rest ({ s.bridge with sent := [] }.recorded 2 .ok)))
      ∧ (named ≠ [] →
        exec .admitMembers s = .next (s.afterFrame rest (Bridge.settle s.mgmt.settings
          (named.foldl
            (fun b m => b.issueStep .migration
              [{ kind := .dprobe, member := m, block := 0, count := 0, payload := [], issuer := .admitProbe }])
            { s.bridge with
              sent := []
              command :=
                { state := .executing named.length, code := 2, result := .blank
                  sequence := s.bridge.command.sequence } }))))

/-- PAUSE taken (R88): in COPY, FILL or RECOVER a hold request is set, with cause COMMAND unless one is set already; in
HELD nothing else changes; the result OK is recorded and the rest of the event follows. A hold request takes effect in
COPY or FILL with no slot in STAGING or WRITING and no checkpoint in flight (R88); that it does so before anything else
the engine may do in the event, an allocation and the passage of a row out of FULL, where R100 lists it last, is the
model's choice (log entry 5). The engine is then HELD with the resume phase that DM gives, the request is cleared, and
alert cause HELD is set when its cause was MEMBER (R83, R88). RESUME taken (R90, R83): with no needed layout BROKEN, a
HELD engine enters COPY or FILL as DM gives, and a hold request that has not taken effect is cleared; no alert cause is
cleared by it; the result OK is recorded and the rest of the event follows. -/
def Obligations.PauseAndResumeTaken : Prop :=
  (∀ (s : State) (f : WriteFrame) (rest : List WriteFrame), s.mgmt.waiting = f :: rest → f.row = .pause →
    s.bridge.command.state = .idle → s.bridge.engine.volume ≠ .discovering →
    (s.bridge.engine.state = .copy ∨ s.bridge.engine.state = .fill ∨ s.bridge.engine.state = .recover →
        exec .pause s = .next (s.afterFrame rest (Bridge.settle s.mgmt.settings
          ({ s.bridge with
              sent := [], engine := { s.bridge.engine with hold := some (s.bridge.engine.hold.getD .command) } }.recorded
            4 .ok))))
      ∧ (s.bridge.engine.state = .held →
        exec .pause s = .next (s.afterFrame rest (Bridge.settle s.mgmt.settings
          ({ s.bridge with sent := [] }.recorded 4 .ok)))))
  ∧ (∀ e : Engine,
      e.holdsNow = true ↔ e.hold ≠ none ∧ (e.state = .copy ∨ e.state = .fill) ∧ e.checkpoint = none
        ∧ ∀ i, (e.slot i).state ≠ .staging ∧ (e.slot i).state ≠ .writing)
  ∧ (∀ b : Bridge, b.engine.holdsNow = true → b.engineAdvance = some b.enterHeld)
  ∧ (∀ (b : Bridge) (phase : Phase),
      (b.engine.volume = .initializing ∧ phase = .fill
        ∨ b.engine.volume = .expanding ∧ ∃ c t : Descriptor, b.engine.current = some c ∧ b.engine.target = some t
            ∧ phase = if b.engine.doneMark ≤ (c.rows * (c.members.length - 1) - 1) / (t.members.length - 1)
                then .copy else .fill) →
        b.enterHeld =
          { b with
            engine := { b.engine with state := .held, resume := some phase, hold := none }
            causes := if b.engine.hold = some .member then b.causes ||| 0x04 else b.causes })
  ∧ ∀ (s : State) (f : WriteFrame) (rest : List WriteFrame), s.mgmt.waiting = f :: rest → f.row = .resume →
    s.bridge.command.state = .idle → s.bridge.engine.volume ≠ .discovering →
    (∀ l ∈ s.bridge.engine.neededLayouts, s.bridge.health l ≠ .broken) →
    (∀ c t : Descriptor, s.bridge.engine.state = .held → s.bridge.engine.volume = .expanding →
        s.bridge.engine.current = some c → s.bridge.engine.target = some t →
        exec .resume s = .next (s.afterFrame rest (Bridge.settle s.mgmt.settings
          ({ s.bridge with
              sent := []
              engine :=
                { s.bridge.engine with
                  state := if s.bridge.engine.doneMark ≤ (c.rows * (c.members.length - 1) - 1) / (t.members.length - 1)
                    then .copy else .fill
                  resume := none } }.recorded 5 .ok))))
      ∧ (s.bridge.engine.state = .held → s.bridge.engine.volume = .initializing →
        exec .resume s = .next (s.afterFrame rest (Bridge.settle s.mgmt.settings
          ({ s.bridge with
              sent := [], engine := { s.bridge.engine with state := .fill, resume := none } }.recorded 5 .ok))))
      ∧ (s.bridge.engine.state = .copy ∨ s.bridge.engine.state = .fill ∨ s.bridge.engine.state = .recover →
        s.bridge.engine.hold ≠ none →
        exec .resume s = .next (s.afterFrame rest (Bridge.settle s.mgmt.settings
          ({ s.bridge with sent := [], engine := { s.bridge.engine with hold := none } }.recorded 5 .ok))))

/-- CANCEL taken (R91): under the conditions of R91, and with all but at most one current member ONLINE, both slots are
dropped, the gather reads leave the overlap order, CANCEL is in progress, the engine's lock work is withdrawn (R118), as
the statement on the engine's failure gives, and the cancel checkpoint is started, as the statement on the start of a
checkpoint gives, and in flight under the next generation, which is the counter plus one below 2^64 − 1 (log entry 25);
the result OK is recorded and the rest of the event follows. -/
def Obligations.CancelTaken : Prop :=
  ∀ (s : State) (f : WriteFrame) (rest : List WriteFrame) (cur : Descriptor), s.mgmt.waiting = f :: rest →
    f.row = .cancel → s.bridge.command.state = .idle → s.bridge.engine.volume = .expanding →
    s.bridge.engine.doneMark = 0 → (s.bridge.engine.state = .copy ∨ s.bridge.engine.state = .held) →
    (∀ j, (s.bridge.engine.slot j).state ≠ .staging ∧ (s.bridge.engine.slot j).state ≠ .writing) →
    s.bridge.engine.checkpoint = none → (∀ d, s.bridge.engine.durable = some d → d.stage = none) →
    s.bridge.engine.current = some cur →
    cur.members.length ≤ (cur.members.filter s.bridge.memberOnline).length + 1 →
      let dropped : Bridge :=
        { s.bridge with
          sent := []
          engine := { s.bridge.engine with slotA := Slot.reset, slotB := Slot.reset, cancel := true }
          port := { s.bridge.port with
            gathers := []
            table := s.bridge.port.table.map (fun q =>
              { q with pieces := q.pieces.map (fun p => { p with slot := none }) }) } }
      ∃ b : Bridge,
        exec .cancel s = .next (s.afterFrame rest (b.settle s.mgmt.settings))
          ∧ b = (dropped.withdrawChunks.startCheckpoint .cancel none).recorded 6 .ok
          ∧ (∀ j, (b.engine.slot j).state = .free ∧ (b.engine.slot j).pending = 0)
          ∧ b.port.gathers = [] ∧ b.engine.cancel = true ∧ b.engine.state = s.bridge.engine.state
          ∧ b.engine.volume = .expanding ∧ b.engine.doneMark = 0
          ∧ (s.bridge.engine.generation ≠ BitVec.allOnes 64 →
              b.engine.generation = s.bridge.engine.generation + 1)
          ∧ (b.engine.checkpoint.map Checkpoint.kind = some .cancel)
          ∧ b.members = s.bridge.members ∧ b.router = s.bridge.router ∧ b.pacing = s.bridge.pacing
          ∧ b.causes = s.bridge.causes ∧ b.port.foreground = s.bridge.port.foreground
          ∧ b.port.capture = s.bridge.port.capture ∧ b.port.check = s.bridge.port.check
          ∧ b.command = { state := .idle, code := 6, result := .ok, sequence := s.bridge.command.sequence + 1 }

/-- ACK clears the causes of its mask and CLEAR CAPTURE empties the capture record and opens the port, each with result OK
and nothing else; both are taken in every volume state (R192, R40, R188). -/
def Obligations.AckAndClearCapture : Prop :=
  ∀ (s : State) (f : WriteFrame) (rest : List WriteFrame), s.mgmt.waiting = f :: rest →
    s.bridge.command.state = .idle →
    (f.row = .ack →
        exec .ack s = .next (s.afterFrame rest
          ({ s.bridge with
              sent := [], causes := s.bridge.causes &&& ~~~((f.data.getD 1 0).setWidth 5) }.recorded 7 .ok)))
      ∧ (f.row = .clearCapture →
        exec .clearCapture s = .next (s.afterFrame rest
          ({ s.bridge with
              sent := [], port := { s.bridge.port with capture := none, check := .clear } }.recorded 8 .ok)))

/-! Invariants of every step. -/

/-- Every step keeps the part sound: the line's buffers suffice and the settings stay in range (R179, R182, R185), the alert
line follows the enabled causes (R195), F is the number of READ and WRITE entries (R41), no tag of the request table
stands twice and all are valid (R23), and the part keeps its ports and member entries. -/
def Obligations.StepKeepsSound : Prop :=
  ∀ s t : State, s.sound → step s = .next t → t.sound

/-- The state after reset is sound. -/
def Obligations.ResetSound : Prop := State.reset.sound
end

