-- ==== Sys2Proof/Laws/Bytes.lean ====
section
/-! SUPPORT. Laws of byte sequences: numbers and their bytes, least significant first, and the fields of a block. -/

namespace Sys2Proof.Machine

open Sys2Proof

@[simp] theorem leBytes_length (w n : Nat) : (leBytes w n).length = w := by
  induction w generalizing n with
  | zero => rfl
  | succ w ih => simp [leBytes, ih]

theorem leNat_append (a b : List Byte) : leNat (a ++ b) = leNat a + 256 ^ a.length * leNat b := by
  induction a with
  | nil => simp [leNat]
  | cons x xs ih => simp only [List.cons_append, leNat, ih, List.length_cons, pow_succ]; ring

theorem leNat_lt (l : List Byte) : leNat l < 256 ^ l.length := by
  induction l with
  | nil => simp [leNat]
  | cons x xs ih =>
      have := x.isLt
      simp only [leNat, List.length_cons, pow_succ]
      omega

/-- Reading back the bytes of a number gives the number, as far as the bytes reach. -/
theorem leNat_leBytes (w n : Nat) : leNat (leBytes w n) = n % 256 ^ w := by
  induction w generalizing n with
  | zero => simp [leBytes, leNat, Nat.mod_one]
  | succ w ih =>
      have h8 : (2 : Nat) ^ 8 = 256 := rfl
      rw [leBytes, leNat, ih, BitVec.toNat_ofNat, h8, pow_succ', Nat.mod_mul]

/-- The bytes from a position of a sequence, as a number. -/
theorem leNat_drop (l : List Byte) (i : Nat) : leNat l / 256 ^ i = leNat (l.drop i) := by
  induction i generalizing l with
  | zero => simp
  | succ i ih =>
      cases l with
      | nil => simp [leNat]
      | cons x xs =>
          have hx : (x.toNat + 256 * leNat xs) / 256 = leNat xs := by have := x.isLt; omega
          rw [pow_succ', ← Nat.div_div_eq_div_mul]
          simp only [leNat, hx, List.drop_succ_cons, ih]

/-- The first bytes of a sequence, as a number. -/
theorem leNat_take (l : List Byte) (w : Nat) : leNat l % 256 ^ w = leNat (l.take w) := by
  rcases Nat.lt_or_ge l.length w with h | h
  · rw [List.take_of_length_le h.le]
    exact Nat.mod_eq_of_lt ((leNat_lt l).trans_le (Nat.pow_le_pow_right (by omega) h.le))
  · conv_lhs => rw [← List.take_append_drop w l]
    rw [leNat_append, List.length_take, Nat.min_eq_left h, Nat.add_mul_mod_self_left]
    have := leNat_lt (l.take w)
    rw [List.length_take, Nat.min_eq_left h] at this
    exact Nat.mod_eq_of_lt this

/-- A run of bytes of a sequence, as a number. -/
theorem leNat_slice (l : List Byte) (i w : Nat) : leNat l / 256 ^ i % 256 ^ w = leNat ((l.drop i).take w) := by
  rw [leNat_drop, leNat_take]

theorem two_pow_eight_mul (n : Nat) : 2 ^ (8 * n) = 256 ^ n := by
  rw [pow_mul]; rfl

/-- A field of a block that a number fills. -/
theorem fieldAt_ofNat {n i w : Nat} (h : n < 2 ^ 32768) :
    fieldAt (BitVec.ofNat 32768 n) i w = n / 256 ^ i % 256 ^ w := by
  simp only [fieldAt, BitVec.extractLsb'_toNat, BitVec.toNat_ofNat, Nat.mod_eq_of_lt h, Nat.shiftRight_eq_div_pow,
    two_pow_eight_mul]

/-- The bitwise XOR of runs of blocks: length, and each block. -/
@[simp] theorem xorBlocks_length (a b : List Block) : (xorBlocks a b).length = min a.length b.length := by
  simp [xorBlocks]

theorem xorBlocks_comm (a b : List Block) : xorBlocks a b = xorBlocks b a := by
  rw [xorBlocks, xorBlocks, List.zipWith_comm]
  congr 1
  funext x y
  exact BitVec.xor_comm y x

end Sys2Proof.Machine
end

