-- ==== Sys2Proof/Laws/State.lean ====
section
/-! SUPPORT. One lemma per field per update of the state records, true by definition. -/

namespace Sys2Proof.Machine

open Sys2Proof

/-! Inner actions and frames. -/

@[simp] theorem Bridge.push_work (b : Bridge) (l : List Action) : (b.push l).work = b.work ++ l := rfl
@[simp] theorem Bridge.push_port (b : Bridge) (l : List Action) : (b.push l).port = b.port := rfl
@[simp] theorem Bridge.push_router (b : Bridge) (l : List Action) : (b.push l).router = b.router := rfl
@[simp] theorem Bridge.push_engine (b : Bridge) (l : List Action) : (b.push l).engine = b.engine := rfl
@[simp] theorem Bridge.push_parity (b : Bridge) (l : List Action) : (b.push l).parity = b.parity := rfl
@[simp] theorem Bridge.push_members (b : Bridge) (l : List Action) : (b.push l).members = b.members := rfl
@[simp] theorem Bridge.push_causes (b : Bridge) (l : List Action) : (b.push l).causes = b.causes := rfl
@[simp] theorem Bridge.push_command (b : Bridge) (l : List Action) : (b.push l).command = b.command := rfl
@[simp] theorem Bridge.push_sent (b : Bridge) (l : List Action) : (b.push l).sent = b.sent := rfl
@[simp] theorem Bridge.send_sent (b : Bridge) (o : Output) : (b.send o).sent = b.sent ++ [o] := rfl
@[simp] theorem Bridge.send_work (b : Bridge) (o : Output) : (b.send o).work = b.work := rfl
@[simp] theorem Bridge.send_port (b : Bridge) (o : Output) : (b.send o).port = b.port := rfl
@[simp] theorem Bridge.send_router (b : Bridge) (o : Output) : (b.send o).router = b.router := rfl
@[simp] theorem Bridge.send_engine (b : Bridge) (o : Output) : (b.send o).engine = b.engine := rfl
@[simp] theorem Bridge.send_members (b : Bridge) (o : Output) : (b.send o).members = b.members := rfl
@[simp] theorem Bridge.send_causes (b : Bridge) (o : Output) : (b.send o).causes = b.causes := rfl

/-! Alert causes. -/

@[simp] theorem Bridge.raise_causes (b : Bridge) (c : BitVec 5) : (b.raise c).causes = b.causes ||| c := rfl
@[simp] theorem Bridge.raise_port (b : Bridge) (c : BitVec 5) : (b.raise c).port = b.port := rfl
@[simp] theorem Bridge.raise_router (b : Bridge) (c : BitVec 5) : (b.raise c).router = b.router := rfl
@[simp] theorem Bridge.raise_engine (b : Bridge) (c : BitVec 5) : (b.raise c).engine = b.engine := rfl
@[simp] theorem Bridge.raise_parity (b : Bridge) (c : BitVec 5) : (b.raise c).parity = b.parity := rfl
@[simp] theorem Bridge.raise_members (b : Bridge) (c : BitVec 5) : (b.raise c).members = b.members := rfl
@[simp] theorem Bridge.raise_work (b : Bridge) (c : BitVec 5) : (b.raise c).work = b.work := rfl
@[simp] theorem Bridge.raise_sent (b : Bridge) (c : BitVec 5) : (b.raise c).sent = b.sent := rfl

/-! The engine and its slots. -/

@[simp] theorem Bridge.onEngine_engine (b : Bridge) (f : Engine → Engine) : (b.onEngine f).engine = f b.engine := rfl
@[simp] theorem Bridge.onEngine_port (b : Bridge) (f : Engine → Engine) : (b.onEngine f).port = b.port := rfl
@[simp] theorem Bridge.onEngine_router (b : Bridge) (f : Engine → Engine) : (b.onEngine f).router = b.router := rfl
@[simp] theorem Bridge.onEngine_parity (b : Bridge) (f : Engine → Engine) : (b.onEngine f).parity = b.parity := rfl
@[simp] theorem Bridge.onEngine_members (b : Bridge) (f : Engine → Engine) : (b.onEngine f).members = b.members := rfl
@[simp] theorem Bridge.onEngine_causes (b : Bridge) (f : Engine → Engine) : (b.onEngine f).causes = b.causes := rfl
@[simp] theorem Bridge.onEngine_work (b : Bridge) (f : Engine → Engine) : (b.onEngine f).work = b.work := rfl
@[simp] theorem Bridge.onEngine_sent (b : Bridge) (f : Engine → Engine) : (b.onEngine f).sent = b.sent := rfl
@[simp] theorem Engine.setSlot_slot (e : Engine) (i : SlotId) (s : Slot) : (e.setSlot i s).slot i = s := by
  cases i <;> rfl
theorem Engine.setSlot_other (e : Engine) {i j : SlotId} (h : j ≠ i) (s : Slot) : (e.setSlot i s).slot j = e.slot j := by
  cases i <;> cases j <;> first | rfl | exact absurd rfl h
@[simp] theorem Engine.setSlot_doneMark (e : Engine) (i : SlotId) (s : Slot) : (e.setSlot i s).doneMark = e.doneMark := by
  cases i <;> rfl
@[simp] theorem Engine.setSlot_state (e : Engine) (i : SlotId) (s : Slot) : (e.setSlot i s).state = e.state := by
  cases i <;> rfl
@[simp] theorem Engine.setSlot_volume (e : Engine) (i : SlotId) (s : Slot) : (e.setSlot i s).volume = e.volume := by
  cases i <;> rfl
@[simp] theorem Engine.setSlot_current (e : Engine) (i : SlotId) (s : Slot) : (e.setSlot i s).current = e.current := by
  cases i <;> rfl
@[simp] theorem Engine.setSlot_target (e : Engine) (i : SlotId) (s : Slot) : (e.setSlot i s).target = e.target := by
  cases i <;> rfl

/-! The parity unit, the shelf ports and the member table. -/

@[simp] theorem Bridge.onParity_parity (b : Bridge) (f : ParityUnit → ParityUnit) : (b.onParity f).parity = f b.parity := rfl
@[simp] theorem Bridge.onParity_port (b : Bridge) (f : ParityUnit → ParityUnit) : (b.onParity f).port = b.port := rfl
@[simp] theorem Bridge.onParity_engine (b : Bridge) (f : ParityUnit → ParityUnit) : (b.onParity f).engine = b.engine := rfl
@[simp] theorem Bridge.onParity_members (b : Bridge) (f : ParityUnit → ParityUnit) : (b.onParity f).members = b.members := rfl
@[simp] theorem Bridge.onParity_causes (b : Bridge) (f : ParityUnit → ParityUnit) : (b.onParity f).causes = b.causes := rfl
@[simp] theorem Bridge.onShelf_shelves (b : Bridge) (p : Nat) (f : ShelfPort → ShelfPort) :
    (b.onShelf p f).shelves = b.shelves.modify p f := rfl
@[simp] theorem Bridge.onShelf_port (b : Bridge) (p : Nat) (f : ShelfPort → ShelfPort) : (b.onShelf p f).port = b.port := rfl
@[simp] theorem Bridge.onShelf_engine (b : Bridge) (p : Nat) (f : ShelfPort → ShelfPort) :
    (b.onShelf p f).engine = b.engine := rfl
@[simp] theorem Bridge.onShelf_members (b : Bridge) (p : Nat) (f : ShelfPort → ShelfPort) :
    (b.onShelf p f).members = b.members := rfl
@[simp] theorem Bridge.onShelf_causes (b : Bridge) (p : Nat) (f : ShelfPort → ShelfPort) :
    (b.onShelf p f).causes = b.causes := rfl
@[simp] theorem Bridge.refreshHealth_port (b : Bridge) : b.refreshHealth.port = b.port := rfl
@[simp] theorem Bridge.refreshHealth_engine (b : Bridge) : b.refreshHealth.engine = b.engine := rfl
@[simp] theorem Bridge.refreshHealth_members (b : Bridge) : b.refreshHealth.members = b.members := rfl
@[simp] theorem Bridge.refreshHealth_causes (b : Bridge) : b.refreshHealth.causes = b.causes := rfl
@[simp] theorem Bridge.onMember_members (b : Bridge) (m : Nat) (f : Member → Member) :
    (b.onMember m f).members = b.members.modify m f := rfl
@[simp] theorem Bridge.onMember_port (b : Bridge) (m : Nat) (f : Member → Member) : (b.onMember m f).port = b.port := rfl
@[simp] theorem Bridge.onMember_engine (b : Bridge) (m : Nat) (f : Member → Member) :
    (b.onMember m f).engine = b.engine := rfl

/-! The request table. -/

@[simp] theorem Bridge.onRequest_table (b : Bridge) (tag : Nat) (f : Request → Request) :
    (b.onRequest tag f).port.table = b.port.table.map (fun r => if r.tag == tag then f r else r) := rfl
@[simp] theorem Bridge.onRequest_foreground (b : Bridge) (tag : Nat) (f : Request → Request) :
    (b.onRequest tag f).port.foreground = b.port.foreground := rfl
@[simp] theorem Bridge.onRequest_engine (b : Bridge) (tag : Nat) (f : Request → Request) :
    (b.onRequest tag f).engine = b.engine := rfl
@[simp] theorem Bridge.foregroundChanged_table (cfg : Settings) (b : Bridge) :
    (b.foregroundChanged cfg).port.table = b.port.table := rfl
@[simp] theorem Bridge.foregroundChanged_foreground (cfg : Settings) (b : Bridge) :
    (b.foregroundChanged cfg).port.foreground = foregroundCount b.port.table := rfl
@[simp] theorem Bridge.foregroundChanged_pacing (cfg : Settings) (b : Bridge) :
    (b.foregroundChanged cfg).pacing = pacingAfter cfg b.pacing (foregroundCount b.port.table) := rfl

/-! The whole state. -/

@[simp] theorem State.onMgmt_mgmt (s : State) (f : Management → Management) : (s.onMgmt f).mgmt = f s.mgmt := rfl
@[simp] theorem State.onMgmt_bridge (s : State) (f : Management → Management) : (s.onMgmt f).bridge = s.bridge := rfl
@[simp] theorem State.onMgmt_pending (s : State) (f : Management → Management) : (s.onMgmt f).pending = s.pending := rfl
@[simp] theorem State.ackBytes_mgmt (s : State) (a : Bool) (n : Nat) : (s.ackBytes a n).mgmt = s.mgmt := rfl
@[simp] theorem State.ackBytes_pending (s : State) (a : Bool) (n : Nat) : (s.ackBytes a n).pending = s.pending := rfl
@[simp] theorem State.ackBytes_bridge (s : State) (a : Bool) (n : Nat) :
    (s.ackBytes a n).bridge = s.bridge.send (.lineAck a n) := rfl
@[simp] theorem State.driveAlert_mgmt (s : State) : s.driveAlert.mgmt = s.mgmt := rfl
@[simp] theorem State.driveAlert_bridge (s : State) : s.driveAlert.bridge = s.bridge := rfl
@[simp] theorem State.driveAlert_pending (s : State) : s.driveAlert.pending = s.pending := rfl
@[simp] theorem State.driveAlert_alertLine (s : State) :
    s.driveAlert.alertLine = alertActive s.mgmt.settings.alertEnable s.bridge.causes := rfl
@[simp] theorem State.onBridge_mgmt (f : Bridge → Bridge) (s : State) : (s.onBridge f).mgmt = s.mgmt := rfl
@[simp] theorem State.onBridge_pending (f : Bridge → Bridge) (s : State) : (s.onBridge f).pending = s.pending := rfl
@[simp] theorem State.onBridge_bridge (f : Bridge → Bridge) (s : State) :
    (s.onBridge f).bridge = f { s.bridge with sent := [] } := rfl
@[simp] theorem State.lineEvent_mgmt (f : State → State) (s : State) :
    (s.lineEvent f).mgmt = (f { s with bridge := { s.bridge with sent := [] } }).mgmt := rfl
@[simp] theorem State.lineEvent_bridge (f : State → State) (s : State) :
    (s.lineEvent f).bridge = (f { s with bridge := { s.bridge with sent := [] } }).bridge := rfl
@[simp] theorem State.lineEvent_pending (f : State → State) (s : State) :
    (s.lineEvent f).pending = (f { s with bridge := { s.bridge with sent := [] } }).pending := rfl
@[simp] theorem State.recordResult_mgmt (s : State) (code : Nat) (r : CommandResult) (b : Bridge) :
    (s.recordResult code r b).mgmt = s.mgmt := rfl
@[simp] theorem State.recordResult_pending (s : State) (code : Nat) (r : CommandResult) (b : Bridge) :
    (s.recordResult code r b).pending = s.pending := rfl
@[simp] theorem State.restarted_mgmt (s : State) : s.restarted.mgmt = Management.reset := rfl
@[simp] theorem State.restarted_pending (s : State) : s.restarted.pending = s.pending := rfl

end Sys2Proof.Machine
end

