-- ==== Sys2Proof/Laws/Engine.lean ====
section
/-! SUPPORT. What the release of row locks, the withdrawal of the engine's lock work and the engine's failure change, and so
what they leave alone. -/

namespace Sys2Proof.Machine

open Sys2Proof

/-- The bridge with the locks, services and inner actions of another: all that the release of a lock changes. -/
def Bridge.withLocks (b c : Bridge) : Bridge :=
  { b with
    parity := { b.parity with
      locks := c.parity.locks, allocation := c.parity.allocation, services := c.parity.services }
    work := c.work }

/-- A fold changes the locks, the services and the inner actions only when each of its steps does. -/
theorem Bridge.foldl_locks_only {α : Type} (f : Bridge → α → Bridge) (each : ∀ b a, f b a = b.withLocks (f b a))
    (l : List α) (b : Bridge) : l.foldl f b = b.withLocks (l.foldl f b) := by
  induction l generalizing b with
  | nil => rfl
  | cons a l ih => rw [List.foldl_cons, ih, each b a]; rfl

/-- The allocation wait list changes the locks, the services and the inner actions only (R117). -/
theorem Bridge.takeAllocation_only (b : Bridge) : b.takeAllocation = b.withLocks b.takeAllocation := by
  refine (Bridge.foldl_locks_only _ (fun b w => ?_) _ _).trans rfl
  split
  · rfl
  · dsimp only
    repeat' split
    all_goals rfl

/-- The release of a row lock changes the locks, the services and the inner actions only (R117). -/
theorem Bridge.releaseLock_only (b : Bridge) (w : Work) : b.releaseLock w = b.withLocks (b.releaseLock w) := by
  unfold Bridge.releaseLock
  split
  · rfl
  · split
    · rfl
    · exact (Bridge.takeAllocation_only _).trans rfl

/-- The end of a service changes the locks, the services and the inner actions only (R117). -/
theorem Bridge.endService_only (b : Bridge) (w : Work) : b.endService w = b.withLocks (b.endService w) :=
  ((b.dropService w).releaseLock_only w).trans rfl

/-- The withdrawal of the engine's lock work changes the locks, the services and the inner actions only (R118). -/
theorem Bridge.withdrawChunks_only (b : Bridge) : b.withdrawChunks = b.withLocks b.withdrawChunks :=
  (Bridge.foldl_locks_only _ (fun b s => b.endService_only s.work) _ _).trans rfl

/-- The engine's failure changes the engine, the array port's gather reads, the router's parked pieces, the locks, the
services, the migration step wait list, the causes and the inner actions only (R94). -/
theorem Bridge.failEngine_only (b : Bridge) :
    b.failEngine =
      { b with
        engine := b.failEngine.engine, port := b.failEngine.port, router := b.failEngine.router
        parity := { b.parity with
          locks := b.failEngine.parity.locks, allocation := b.failEngine.parity.allocation
          services := b.failEngine.parity.services }
        migrationWait := b.failEngine.migrationWait
        causes := b.failEngine.causes, work := b.failEngine.work } := by
  unfold Bridge.failEngine
  split
  · rfl
  · dsimp only
    rw [Bridge.withdrawChunks_only]
    rfl

@[simp] theorem Bridge.failEngine_shelves (b : Bridge) : b.failEngine.shelves = b.shelves := by
  rw [Bridge.failEngine_only]
@[simp] theorem Bridge.failEngine_members (b : Bridge) : b.failEngine.members = b.members := by
  rw [Bridge.failEngine_only]
@[simp] theorem Bridge.failEngine_foregroundWait (b : Bridge) : b.failEngine.foregroundWait = b.foregroundWait := by
  rw [Bridge.failEngine_only]
@[simp] theorem Bridge.failEngine_discovery (b : Bridge) : b.failEngine.discovery = b.discovery := by
  rw [Bridge.failEngine_only]
@[simp] theorem Bridge.failEngine_pacing (b : Bridge) : b.failEngine.pacing = b.pacing := by
  rw [Bridge.failEngine_only]
@[simp] theorem Bridge.failEngine_command (b : Bridge) : b.failEngine.command = b.command := by
  rw [Bridge.failEngine_only]
@[simp] theorem Bridge.failEngine_sent (b : Bridge) : b.failEngine.sent = b.sent := by
  rw [Bridge.failEngine_only]
@[simp] theorem Bridge.failEngine_health (b : Bridge) (l : Layout) : b.failEngine.health l = b.health l := by
  rw [Bridge.failEngine_only]
  cases l <;> rfl

/-! What the release of locks depends on: the parity unit and the inner actions. -/

/-- Two bridges with the same parity unit and the same inner actions. -/
def Bridge.sameLocks (b c : Bridge) : Prop := b.parity = c.parity ∧ b.work = c.work

theorem Bridge.foldl_sameLocks {α : Type} (f : Bridge → α → Bridge)
    (each : ∀ b c a, b.sameLocks c → (f b a).sameLocks (f c a)) (l : List α) {b c : Bridge} (h : b.sameLocks c) :
    (l.foldl f b).sameLocks (l.foldl f c) := by
  induction l generalizing b c with
  | nil => exact h
  | cons a l ih => exact ih (each b c a h)

theorem Bridge.takeAllocation_sameLocks {b c : Bridge} (h : b.sameLocks c) :
    b.takeAllocation.sameLocks c.takeAllocation := by
  unfold Bridge.takeAllocation
  rw [h.1]
  refine Bridge.foldl_sameLocks _ (fun b c w h => ?_) _ ⟨by simp [Bridge.onParity, h.1], h.2⟩
  obtain ⟨parity, work⟩ := h
  simp only [Bridge.service?, parity]
  repeat' split
  all_goals simp [Bridge.sameLocks, Bridge.onParity, Bridge.push, parity, work]

theorem Bridge.endService_sameLocks {b c : Bridge} (h : b.sameLocks c) (w : Work) :
    (b.endService w).sameLocks (c.endService w) := by
  have dropped : (b.dropService w).sameLocks (c.dropService w) :=
    ⟨by simp [Bridge.dropService, Bridge.onParity, h.1], h.2⟩
  unfold Bridge.endService Bridge.releaseLock
  rw [dropped.1]
  obtain ⟨parity, work⟩ := dropped
  split
  · exact ⟨parity, work⟩
  · split
    · simp [Bridge.sameLocks, Bridge.onParity, Bridge.push, parity, work]
    · exact Bridge.takeAllocation_sameLocks ⟨by simp [Bridge.onParity, parity], work⟩

theorem Bridge.withdrawChunks_sameLocks {b c : Bridge} (h : b.sameLocks c) :
    b.withdrawChunks.sameLocks c.withdrawChunks := by
  unfold Bridge.withdrawChunks
  dsimp only
  rw [h.1]
  exact Bridge.foldl_sameLocks _ (fun b c s h => Bridge.endService_sameLocks h s.work) _
    ⟨by simp [Bridge.onParity, h.1], h.2⟩

end Sys2Proof.Machine
end

