-- ==== Sys2Proof/Laws/Shelf.lean ====
section
/-! SUPPORT. What handing over a step, freeing a tag, declaring a member failed and starting a checkpoint do, and what they
leave alone. -/

namespace Sys2Proof.Machine

open Sys2Proof

/-! Handing over a step changes the shelf ports, their wait lists and the inner actions only. -/

/-- Commands that join their queues change the shelf ports only. -/
theorem Bridge.enqueue_shelves_only (b : Bridge) (step : List DriveCommand) :
    b.enqueue step = { b with shelves := (b.enqueue step).shelves } := by
  unfold Bridge.enqueue
  induction step generalizing b with
  | nil => rfl
  | cons c l ih => rw [List.foldl_cons, ih]; rfl

/-- A step that is handed over changes the shelf ports, the step wait lists and the inner actions only. -/
theorem Bridge.issueStep_only (b : Bridge) (cls : CommandClass) (step : List DriveCommand) :
    b.issueStep cls step =
      { b with
        shelves := (b.issueStep cls step).shelves, foregroundWait := (b.issueStep cls step).foregroundWait
        migrationWait := (b.issueStep cls step).migrationWait, work := (b.issueStep cls step).work } := by
  unfold Bridge.issueStep
  dsimp only
  split
  · rfl
  · split
    · rw [Bridge.enqueue_shelves_only]
      rfl
    · cases cls <;> rfl

@[simp] theorem Bridge.enqueue_port (b : Bridge) (step : List DriveCommand) : (b.enqueue step).port = b.port := by
  rw [Bridge.enqueue_shelves_only]
@[simp] theorem Bridge.enqueue_router (b : Bridge) (step : List DriveCommand) : (b.enqueue step).router = b.router := by
  rw [Bridge.enqueue_shelves_only]
@[simp] theorem Bridge.enqueue_engine (b : Bridge) (step : List DriveCommand) : (b.enqueue step).engine = b.engine := by
  rw [Bridge.enqueue_shelves_only]
@[simp] theorem Bridge.enqueue_parity (b : Bridge) (step : List DriveCommand) : (b.enqueue step).parity = b.parity := by
  rw [Bridge.enqueue_shelves_only]
@[simp] theorem Bridge.enqueue_members (b : Bridge) (step : List DriveCommand) : (b.enqueue step).members = b.members := by
  rw [Bridge.enqueue_shelves_only]
@[simp] theorem Bridge.enqueue_pacing (b : Bridge) (step : List DriveCommand) : (b.enqueue step).pacing = b.pacing := by
  rw [Bridge.enqueue_shelves_only]
@[simp] theorem Bridge.enqueue_discovery (b : Bridge) (step : List DriveCommand) : (b.enqueue step).discovery = b.discovery := by
  rw [Bridge.enqueue_shelves_only]
@[simp] theorem Bridge.enqueue_causes (b : Bridge) (step : List DriveCommand) : (b.enqueue step).causes = b.causes := by
  rw [Bridge.enqueue_shelves_only]
@[simp] theorem Bridge.enqueue_command (b : Bridge) (step : List DriveCommand) : (b.enqueue step).command = b.command := by
  rw [Bridge.enqueue_shelves_only]
@[simp] theorem Bridge.enqueue_sent (b : Bridge) (step : List DriveCommand) : (b.enqueue step).sent = b.sent := by
  rw [Bridge.enqueue_shelves_only]
@[simp] theorem Bridge.issueStep_port (b : Bridge) (cls : CommandClass) (step : List DriveCommand) :
    (b.issueStep cls step).port = b.port := by
  rw [Bridge.issueStep_only]
@[simp] theorem Bridge.issueStep_router (b : Bridge) (cls : CommandClass) (step : List DriveCommand) :
    (b.issueStep cls step).router = b.router := by
  rw [Bridge.issueStep_only]
@[simp] theorem Bridge.issueStep_engine (b : Bridge) (cls : CommandClass) (step : List DriveCommand) :
    (b.issueStep cls step).engine = b.engine := by
  rw [Bridge.issueStep_only]
@[simp] theorem Bridge.issueStep_parity (b : Bridge) (cls : CommandClass) (step : List DriveCommand) :
    (b.issueStep cls step).parity = b.parity := by
  rw [Bridge.issueStep_only]
@[simp] theorem Bridge.issueStep_members (b : Bridge) (cls : CommandClass) (step : List DriveCommand) :
    (b.issueStep cls step).members = b.members := by
  rw [Bridge.issueStep_only]
@[simp] theorem Bridge.issueStep_pacing (b : Bridge) (cls : CommandClass) (step : List DriveCommand) :
    (b.issueStep cls step).pacing = b.pacing := by
  rw [Bridge.issueStep_only]
@[simp] theorem Bridge.issueStep_discovery (b : Bridge) (cls : CommandClass) (step : List DriveCommand) :
    (b.issueStep cls step).discovery = b.discovery := by
  rw [Bridge.issueStep_only]
@[simp] theorem Bridge.issueStep_causes (b : Bridge) (cls : CommandClass) (step : List DriveCommand) :
    (b.issueStep cls step).causes = b.causes := by
  rw [Bridge.issueStep_only]
@[simp] theorem Bridge.issueStep_command (b : Bridge) (cls : CommandClass) (step : List DriveCommand) :
    (b.issueStep cls step).command = b.command := by
  rw [Bridge.issueStep_only]
@[simp] theorem Bridge.issueStep_sent (b : Bridge) (cls : CommandClass) (step : List DriveCommand) :
    (b.issueStep cls step).sent = b.sent := by
  rw [Bridge.issueStep_only]
@[simp] theorem Bridge.enqueue_work (b : Bridge) (step : List DriveCommand) : (b.enqueue step).work = b.work := by
  rw [Bridge.enqueue_shelves_only]

/-- The inner actions of a step that is handed over: its commands to failed members end as failed (R147). -/
theorem Bridge.issueStep_work (b : Bridge) (cls : CommandClass) (step : List DriveCommand) :
    (b.issueStep cls step).work
      = b.work ++ (step.filter (fun c => b.memberFailed c.member)).map (fun c => .deliver c .failed) := by
  unfold Bridge.issueStep
  dsimp only
  split
  · rfl
  · split
    · simp
    · cases cls <;> rfl

/-- A step with no command to a failed member is queued whole, or waits whole (R137). -/
theorem Bridge.issueStep_live {b : Bridge} {cls : CommandClass} {step : List DriveCommand} (hne : step ≠ [])
    (live : ∀ c ∈ step, b.memberFailed c.member = false) :
    b.issueStep cls step =
      if (b.waitList cls).isEmpty && b.fits cls step then b.enqueue step
      else b.setWaitList cls (b.waitList cls ++ [step]) := by
  have h1 : step.filter (fun c => b.memberFailed c.member) = [] := by
    rw [List.filter_eq_nil_iff]
    exact fun c hc => by simp [live c hc]
  have h2 : step.filter (fun c => !b.memberFailed c.member) = step := by
    rw [List.filter_eq_self]
    exact fun c hc => by simp [live c hc]
  have h3 : b.push [] = b := by simp [Bridge.push]
  unfold Bridge.issueStep
  simp only [h1, h2, List.map_nil, h3, List.isEmpty_iff, if_neg hne]

/-! Tags and failures. -/

@[simp] theorem Bridge.freeTag_work (b : Bridge) (port tag : Nat) : (b.freeTag port tag).work = b.work := rfl
@[simp] theorem Bridge.freeTag_engine (b : Bridge) (port tag : Nat) : (b.freeTag port tag).engine = b.engine := rfl
@[simp] theorem Bridge.freeTag_members (b : Bridge) (port tag : Nat) : (b.freeTag port tag).members = b.members := rfl
@[simp] theorem Bridge.freeTag_port (b : Bridge) (port tag : Nat) : (b.freeTag port tag).port = b.port := rfl

/-- A shelf port that exists, after a change of it. -/
theorem Bridge.onShelf_shelf {b : Bridge} {p : Nat} (h : p < b.shelves.length) (f : ShelfPort → ShelfPort) :
    (b.onShelf p f).shelf p = f (b.shelf p) := by
  simp [Bridge.onShelf, Bridge.shelf, h]

/-- Another shelf port stands. -/
theorem Bridge.onShelf_other {p q : Nat} (h : q ≠ p) (b : Bridge) (f : ShelfPort → ShelfPort) :
    (b.onShelf p f).shelf q = b.shelf q := by
  simp [Bridge.onShelf, Bridge.shelf, h.symm]

/-- A freed tag is not outstanding. -/
theorem Bridge.freeTag_tagEntry (b : Bridge) (port tag : Nat) : (b.freeTag port tag).tagEntry? port tag = none := by
  unfold Bridge.tagEntry?
  rw [List.find?_eq_none]
  rcases Nat.lt_or_ge port b.shelves.length with h | h
  · rw [Bridge.freeTag, Bridge.onShelf_shelf h]
    intro x hx
    simpa using (List.mem_filter.1 hx).2
  · intro x hx
    have : (b.freeTag port tag).shelves.length ≤ port := by simpa [Bridge.freeTag] using h
    rw [Bridge.shelf, List.getD_eq_default _ _ this] at hx
    simp [ShelfPort.reset] at hx

/-- A member entry that exists, after a change of it. -/
theorem Bridge.onMember_member {b : Bridge} {m : Nat} (h : m < b.members.length) (f : Member → Member) :
    (b.onMember m f).member m = f (b.member m) := by
  simp [Bridge.onMember, Bridge.refreshHealth, Bridge.member, h]

/-- Another member entry stands. -/
theorem Bridge.onMember_other {m k : Nat} (h : k ≠ m) (b : Bridge) (f : Member → Member) :
    (b.onMember m f).member k = b.member k := by
  simp [Bridge.onMember, Bridge.refreshHealth, Bridge.member, h.symm]

/-- Taking a member's commands out changes the shelf ports and the step wait lists only (R147). -/
theorem Bridge.withoutMember_only (b : Bridge) (m : Nat) :
    b.withoutMember m =
      { b with
        shelves := (b.withoutMember m).shelves, foregroundWait := waitListLeft m b.foregroundWait
        migrationWait := waitListLeft m b.migrationWait } := rfl

/-- The port of a member, with the member's commands taken out. -/
theorem Bridge.withoutMember_shelf {b : Bridge} {m : Nat} (h : shelfOf m < b.shelves.length) :
    (b.withoutMember m).shelf (shelfOf m) = (b.shelf (shelfOf m)).without m :=
  Bridge.onShelf_shelf h _

/-- The state of a member that is declared FAILED. -/
theorem Bridge.markFailed_member {b : Bridge} {m : Nat} (h : m < b.members.length) :
    (b.markFailed m).member m = { b.member m with state := .failed } := by
  simp [Bridge.markFailed, Bridge.member, h]

/-- The engine enters FAILED when its work in flight needs a layout that is BROKEN (R93, R94). -/
theorem Bridge.engineLearns_broken {b : Bridge} {m : Nat} {wroteOut : Bool} (h : b.brokenWork wroteOut = true) :
    b.engineLearns m wroteOut = b.failEngine := by
  simp [Bridge.engineLearns, h]

/-- The engine takes a hold request with cause MEMBER for a column that it needs (R93). -/
theorem Bridge.engineLearns_hold {b : Bridge} {m : Nat} {wroteOut : Bool} (h : b.brokenWork wroteOut = false)
    (needed : b.neededColumn m = true) (takes : b.engine.takesHold = true) :
    b.engineLearns m wroteOut = b.onEngine (fun e => { e with hold := some .member }) := by
  simp [Bridge.engineLearns, h, needed, takes]

/-- The engine does nothing for a column that it does not need, or when it takes no hold request (R93). -/
theorem Bridge.engineLearns_nothing {b : Bridge} {m : Nat} {wroteOut : Bool} (h : b.brokenWork wroteOut = false)
    (idle : (b.neededColumn m && b.engine.takesHold) = false) : b.engineLearns m wroteOut = b := by
  simp [Bridge.engineLearns, h, idle]

/-! The start of a checkpoint (R99). -/

/-- Below 2^64 − 1 the next generation is the counter plus one (R99). -/
theorem nextGeneration_below {g : BitVec 64} (below : g ≠ BitVec.allOnes 64) : nextGeneration g = g + 1 :=
  if_neg (by simpa using below)

/-- A checkpoint for which there are members enough is in flight under the next generation; the engine changes in nothing
else, and the shelf ports get its step. -/
theorem Bridge.startCheckpoint_starts {b : Bridge} {kind : CheckpointKind} {stage : Option (Nat × Nat)}
    (enough : b.layoutColumns (b.engine.checkpointLayout kind) - 1
      ≤ (b.onlineMembers (b.engine.checkpointLayout kind)).length) :
    ∃ c : Checkpoint, c.kind = kind ∧ c.generation = nextGeneration b.engine.generation ∧ c.stage = stage
      ∧ (b.startCheckpoint kind stage).engine
          = { b.engine with generation := nextGeneration b.engine.generation, checkpoint := some c }
      ∧ (b.startCheckpoint kind stage).port = b.port ∧ (b.startCheckpoint kind stage).router = b.router
      ∧ (b.startCheckpoint kind stage).members = b.members ∧ (b.startCheckpoint kind stage).pacing = b.pacing
      ∧ (b.startCheckpoint kind stage).causes = b.causes ∧ (b.startCheckpoint kind stage).command = b.command := by
  unfold Bridge.startCheckpoint
  dsimp only
  rw [if_neg (Nat.not_lt.2 enough)]
  refine ⟨_, ?kind, ?generation, ?stage, (Bridge.issueStep_engine _ _ _).trans rfl, ?_, ?_, ?_, ?_, ?_, ?_⟩
  case kind => rfl
  case generation => rfl
  case stage => rfl
  all_goals simp
  all_goals rfl

/-- The start of a checkpoint changes no member. -/
@[simp] theorem Bridge.startCheckpoint_members (b : Bridge) (kind : CheckpointKind) (stage : Option (Nat × Nat)) :
    (b.startCheckpoint kind stage).members = b.members := by
  unfold Bridge.startCheckpoint
  dsimp only
  split <;> simp

/-- The start of a checkpoint changes the health of no layout. -/
@[simp] theorem Bridge.startCheckpoint_health (b : Bridge) (kind : CheckpointKind) (stage : Option (Nat × Nat))
    (l : Layout) : (b.startCheckpoint kind stage).health l = b.health l := by
  unfold Bridge.startCheckpoint
  dsimp only
  split
  · rw [Bridge.failEngine_only]
    cases l <;> rfl
  · cases l <;> simp [Bridge.health]

/-- What commands that join their queues change of a port: its queue of the class, and the starvation timer when the
migration queue was empty and one of them joins it. -/
theorem Bridge.enqueue_joins {cls : CommandClass} (step : List DriveCommand) {b : Bridge} (ports : b.shelves.length = 6)
    (each : ∀ c ∈ step, c.issuer.cls = cls ∧ c.member < 96) (q : Nat) :
    (b.enqueue step).shelves.length = 6
      ∧ ((b.enqueue step).shelf q).queue cls
          = (b.shelf q).queue cls ++ step.filter (fun c => q < 6 ∧ c.member / 16 = q)
      ∧ ((b.enqueue step).shelf q).table = (b.shelf q).table ∧ ((b.enqueue step).shelf q).grants = (b.shelf q).grants
      ∧ ((b.enqueue step).shelf q).starvation =
          if cls = .migration ∧ q < 6 ∧ (step.filter (fun c => c.member / 16 = q)).length ≠ 0
              ∧ (b.shelf q).migration = [] then some 0
          else (b.shelf q).starvation := by
  induction step generalizing b with
  | nil => simp [Bridge.enqueue, ports]
  | cons c rest ih =>
      obtain ⟨own, member⟩ := each c (by simp)
      have port : shelfOf c.member < b.shelves.length := by
        have small : shelfOf c.member < 6 := Nat.div_lt_of_lt_mul member
        omega
      obtain ⟨length, queue, table, grants, starvation⟩ :=
        ih (b := b.onShelf (shelfOf c.member) (fun p => p.join c)) (by simp [Bridge.onShelf, ports])
          (fun x hx => each x (by simp [hx]))
      have step : b.enqueue (c :: rest) = (b.onShelf (shelfOf c.member) (fun p => p.join c)).enqueue rest := rfl
      rw [step, queue, table, grants, starvation]
      refine ⟨length, ?_⟩
      have place : shelfOf c.member = c.member / 16 := rfl
      by_cases here : q = shelfOf c.member
      · have q6 : q < 6 := by omega
        have same : c.member / 16 = q := by omega
        rw [here, Bridge.onShelf_shelf port, ← here]
        cases cls with
        | foreground => simp [ShelfPort.join, ShelfPort.queue, own, q6, same]
        | migration => cases h : (b.shelf q).migration <;> simp [ShelfPort.join, ShelfPort.queue, own, q6, same, h]
      · have away : c.member / 16 ≠ q := by omega
        rw [Bridge.onShelf_other here]
        simp [away]

end Sys2Proof.Machine
end

