-- ==== Sys2Proof/Laws/Discovery.lean ====
section
/-! SUPPORT. What discovery holds of its members, and what the end of a discovery probe does (R164, R167). -/

namespace Sys2Proof.Machine

open Sys2Proof

@[simp] theorem Discovery.onMember_length (d : Discovery) (m : Nat) (f : DiscoveryMember → DiscoveryMember) :
    (d.onMember m f).members.length = d.members.length := by
  simp [Discovery.onMember]

theorem Discovery.onMember_member {d : Discovery} {m : Nat} (h : m < d.members.length)
    (f : DiscoveryMember → DiscoveryMember) : (d.onMember m f).member m = f (d.member m) := by
  simp [Discovery.onMember, Discovery.member, h]

theorem Discovery.onMember_other {m k : Nat} (h : k ≠ m) (d : Discovery) (f : DiscoveryMember → DiscoveryMember) :
    (d.onMember m f).member k = d.member k := by
  simp [Discovery.onMember, Discovery.member, h.symm]

/-- While something of a member is still open, not everything of discovery is over. -/
theorem Discovery.open_of_member {d : Discovery} {m : Nat} (h : m < d.members.length)
    (still : (d.member m).over = false) : d.members.all DiscoveryMember.over = false := by
  refine List.all_eq_false.2 ⟨d.member m, ?_, by simp [still]⟩
  simp [Discovery.member, h]

/-- The choice event follows when everything is over, and in no other case (R167). -/
theorem Bridge.chooseWhenOver_work {b : Bridge} {d : Discovery} (h : b.discovery = some d) :
    b.chooseWhenOver.work = b.work ++ (if d.members.all DiscoveryMember.over then [.choose] else []) := by
  simp only [Bridge.chooseWhenOver, h]
  split
  · rfl
  · simp

/-- Whether the choice event follows changes the inner actions only. -/
theorem Bridge.chooseWhenOver_only (b : Bridge) : b.chooseWhenOver = { b with work := b.chooseWhenOver.work } := by
  unfold Bridge.chooseWhenOver
  split
  · rfl
  · split <;> rfl

/-- The record reads of an answered member add no inner action: its member is PRESENT. -/
theorem Bridge.recordReads_work {b : Bridge} {m : Nat} (live : b.memberFailed m = false) :
    (b.issueStep .migration (recordReads m)).work = b.work := by
  rw [Bridge.issueStep_work]
  simp [recordReads, live]

/-- What the end of a discovery probe with no answer of use does: the member is absent, with nothing of it left open. -/
theorem Bridge.discoveryProbeEnded_none {b : Bridge} {d : Discovery} {m : Nat} (running : b.discovery = some d) :
    b.discoveryProbeEnded m none =
      (Bridge.onDiscovery (b.onMember m (fun _ => Member.reset)) (fun _ =>
        d.onMember m (fun _ => { probe := .absent, block0 := .ended, block8 := .ended }))).chooseWhenOver := by
  have kept : (b.onMember m (fun _ => Member.reset)).discovery = some d := running
  simp [Bridge.discoveryProbeEnded, running, Bridge.onDiscovery, kept]

/-- What the end of a discovery probe of a member too small for the records does: nothing of it is left open. -/
theorem Bridge.discoveryProbeEnded_small {b : Bridge} {d : Discovery} {m capacity : Nat}
    (running : b.discovery = some d) (small : capacity < Config.firstDataBlock) :
    b.discoveryProbeEnded m (some capacity) =
      (Bridge.onDiscovery (b.onMember m (fun _ => Member.found capacity)) (fun _ =>
        d.onMember m (fun _ => { probe := .answered capacity, block0 := .ended, block8 := .ended }))).chooseWhenOver := by
  have kept : (b.onMember m (fun _ => Member.found capacity)).discovery = some d := running
  simp [Bridge.discoveryProbeEnded, running, Bridge.onDiscovery, kept, Nat.not_le.2 small]

/-- What the end of a discovery probe of any other member does: its two record reads are handed over as one step. -/
theorem Bridge.discoveryProbeEnded_reads {b : Bridge} {d : Discovery} {m capacity : Nat}
    (running : b.discovery = some d) (large : Config.firstDataBlock ≤ capacity) :
    b.discoveryProbeEnded m (some capacity) =
      (Bridge.onDiscovery (b.onMember m (fun _ => Member.found capacity)) (fun _ =>
        d.onMember m (fun _ =>
          { probe := .answered capacity, block0 := .pending, block8 := .pending }))).issueStep .migration
        (recordReads m) := by
  have kept : (b.onMember m (fun _ => Member.found capacity)).discovery = some d := running
  simp [Bridge.discoveryProbeEnded, running, Bridge.onDiscovery, kept, large]

end Sys2Proof.Machine
end

