-- ==== Sys2Proof/Laws/Event.lean ====
section
/-! SUPPORT. What every event does: each command answers a next state, and an event runs by one inner action after
another until none is left. -/

namespace Sys2Proof.Machine

open Sys2Proof

/-- Every command answers a next state: nothing stops the part. -/
theorem exec_next (i : Instr) (s : State) : ∃ t, exec i s = .next t := by
  cases i <;> exact ⟨_, rfl⟩

/-- An event that still has something to do does its next thing first. -/
theorem Bridge.settleWithin_step {cfg : Settings} {b b' : Bridge} (fuel : Nat) (h : b.tick cfg = some b') :
    b.settleWithin cfg (fuel + 1) = b'.settleWithin cfg fuel := by
  simp only [Bridge.settleWithin, h]

/-- An event with nothing left to do is over. -/
theorem Bridge.settleWithin_done {cfg : Settings} {b : Bridge} (fuel : Nat) (h : b.tick cfg = none) :
    b.settleWithin cfg fuel = b := by
  cases fuel <;> simp only [Bridge.settleWithin, h]

/-- What every inner action, grant, dispatch and engine step keeps, an event keeps. -/
theorem Bridge.settleWithin_keeps {cfg : Settings} {P : Bridge → Prop}
    (keeps : ∀ b b', P b → b.tick cfg = some b' → P b') (fuel : Nat) (b : Bridge) (h : P b) :
    P (b.settleWithin cfg fuel) := by
  induction fuel generalizing b with
  | zero => exact h
  | succ n ih =>
      cases ht : b.tick cfg with
      | none => rwa [b.settleWithin_done _ ht]
      | some b' => rw [b.settleWithin_step _ ht]; exact ih b' (keeps b b' h ht)

/-- What every inner action, grant, dispatch and engine step keeps, an event keeps. -/
theorem Bridge.settle_keeps {cfg : Settings} {P : Bridge → Prop}
    (keeps : ∀ b b', P b → b.tick cfg = some b' → P b') (b : Bridge) (h : P b) : P (b.settle cfg) :=
  b.settleWithin_keeps keeps _ h

/-- An event with nothing to do leaves the bridge. -/
theorem Bridge.settle_done {cfg : Settings} {b : Bridge} (h : b.tick cfg = none) : b.settle cfg = b :=
  b.settleWithin_done _ h

/-- The one thing a tick can be: an inner action, an act of the shelf ports, a dispatch, or a step of the engine. -/
theorem Bridge.tick_cases {cfg : Settings} {b b' : Bridge} (h : b.tick cfg = some b') :
    (∃ a rest, b.work = a :: rest ∧ b' = b.performFirst cfg a rest)
      ∨ (b.work = [] ∧ b.pump cfg = some b')
      ∨ (b.work = [] ∧ b.pump cfg = none ∧ b.dispatchNext = some b')
      ∨ (b.work = [] ∧ b.pump cfg = none ∧ b.dispatchNext = none ∧ b.engineAdvance = some b') := by
  unfold Bridge.tick at h
  split at h
  · rename_i a rest hw
    exact .inl ⟨a, rest, hw, by simpa using h.symm⟩
  · rename_i hw
    split at h
    · rename_i hp
      exact .inr (.inl ⟨hw, by simpa [hp] using h⟩)
    · rename_i hp
      split at h
      · rename_i hd
        exact .inr (.inr (.inl ⟨hw, hp, by simpa [hd] using h⟩))
      · rename_i hd
        exact .inr (.inr (.inr ⟨hw, hp, hd, h⟩))

/-- A step takes the command at the front of the queue and has its effect with the rest of the queue. -/
theorem step_cons (c : Instr) (s : State) : step { s with pending := c :: s.pending } = exec c s := rfl

/-- The processing of a frame of this row acts on the oldest waiting frame. -/
theorem State.processAs_row {row : FrameRow} {s : State} (h : s.mgmt.oldestRow = some row) :
    s.processAs row = s.lineEvent State.processOldest := by
  simp [State.processAs, State.lineEvent, h]

/-- An event is a course of things done one after another, which ends where nothing is left or the bound is met. -/
theorem Bridge.settleWithin_course (cfg : Settings) (fuel : Nat) (b : Bridge) :
    ∃ (n : Nat) (course : Nat → Bridge),
      n ≤ fuel ∧ course 0 = b ∧ (∀ i < n, (course i).tick cfg = some (course (i + 1)))
        ∧ b.settleWithin cfg fuel = course n ∧ ((b.settleWithin cfg fuel).tick cfg = none ∨ n = fuel) := by
  induction fuel generalizing b with
  | zero => exact ⟨0, fun _ => b, le_rfl, rfl, by simp, rfl, .inr rfl⟩
  | succ fuel ih =>
      cases h : b.tick cfg with
      | none =>
          rw [Bridge.settleWithin_done _ h]
          exact ⟨0, fun _ => b, by omega, rfl, by simp, rfl, .inl h⟩
      | some next =>
          obtain ⟨n, course, bound, first, each, last, ended⟩ := ih next
          rw [Bridge.settleWithin_step _ h]
          refine ⟨n + 1, fun i => if i = 0 then b else course (i - 1), by omega, rfl, fun i hi => ?_, by simpa using last,
            ended.imp id (by omega)⟩
          cases i with
          | zero => simpa [first] using h
          | succ i => simpa using each i (by omega)

end Sys2Proof.Machine
end

