-- ==== Sys2Proof/Laws/Frames.lean ====
section
/-! SUPPORT. How a frame is taken: a request frame that passes the early tests, and the oldest write frame. -/

namespace Sys2Proof.Machine

open Sys2Proof

/-- A request frame that reaches step 5 of R21 gets the rest of its handling. -/
theorem Bridge.takeFrame_passed {s : State} {kind : Byte} {h : Header} (passed : s.pastEarlyTests kind h = true)
    (rest : Bridge → Bridge) :
    Bridge.takeFrame s.mgmt.settings { s.bridge with sent := [] } kind h rest = rest { s.bridge with sent := [] } := by
  simp only [State.pastEarlyTests, Bool.and_eq_true, Bool.not_eq_true', bne_iff_ne, ne_eq, decide_eq_true_eq] at passed
  obtain ⟨⟨⟨check, volume⟩, tag⟩, free⟩ := passed
  have : ¬Config.requestTags ≤ h.tag.toNat := Nat.not_le.2 tag
  simp [Bridge.takeFrame, Bridge.earlyTest, check, volume, this, free]

/-- The state as the processing of the oldest waiting frame finds it: its buffer empty, and no frame sent yet. -/
def State.beforeFrame (s : State) (rest : List WriteFrame) : State :=
  { s with mgmt := { s.mgmt with waiting := rest }, bridge := { s.bridge with sent := [] } }

/-- The processing of the oldest waiting frame as its own row. -/
theorem State.processAs_waiting {s : State} {f : WriteFrame} {rest : List WriteFrame} {row : FrameRow}
    (waiting : s.mgmt.waiting = f :: rest) (own : f.row = row) :
    s.processAs row = ((s.beforeFrame rest).applyFrame f).driveAlert := by
  simp [State.processAs, State.lineEvent, Management.oldestRow, waiting, own, State.processOldest, State.onMgmt,
    State.beforeFrame]

/-- A processing row that is not that of the oldest waiting frame changes only what is shown as sent. -/
theorem State.processAs_other {s : State} {row : FrameRow} (other : s.mgmt.oldestRow ≠ some row) :
    s.processAs row = ({ s with bridge := { s.bridge with sent := [] } } : State).driveAlert := by
  simp [State.processAs, State.lineEvent, other]

/-- A command that is taken is recorded with OK, and the rest of its event runs (R188). -/
theorem State.recordResult_ok (s : State) (code : Nat) (b : Bridge) :
    s.recordResult code .ok b = { s with bridge := (b.recorded code .ok).settle s.mgmt.settings } := by
  simp only [State.recordResult, beq_self_eq_true, if_true]
  generalize Bridge.settle = settle
  rfl

end Sys2Proof.Machine
end

