-- ==== Sys2Proof/Laws/Key.lean ====
section
/-! SUPPORT. What the operations of an event leave alone: the tags and kinds of the request table, F, and the number of
ports and member entries. Only a completion takes an entry out of the table, and only an acceptance puts one in. -/

namespace Sys2Proof.Machine

open Sys2Proof

/-- The tags and kinds of the request table, F, and the number of ports and member entries. -/
def Bridge.key (b : Bridge) : List (Nat × RequestKind) × Nat × Nat × Nat :=
  (b.port.table.map (fun r => (r.tag, r.kind)), b.port.foreground, b.shelves.length, b.members.length)

/-! Operations over the state. -/

@[simp] theorem Bridge.push_key (b : Bridge) (l : List Action) : (b.push l).key = b.key := rfl
@[simp] theorem Bridge.send_key (b : Bridge) (o : Output) : (b.send o).key = b.key := rfl
@[simp] theorem Bridge.raise_key (b : Bridge) (c : BitVec 5) : (b.raise c).key = b.key := rfl
@[simp] theorem Bridge.onEngine_key (b : Bridge) (f : Engine → Engine) : (b.onEngine f).key = b.key := rfl
@[simp] theorem Bridge.onSlot_key (b : Bridge) (i : SlotId) (f : Slot → Slot) : (b.onSlot i f).key = b.key := rfl
@[simp] theorem Bridge.refreshHealth_key (b : Bridge) : b.refreshHealth.key = b.key := rfl
@[simp] theorem Bridge.onParity_key (b : Bridge) (f : ParityUnit → ParityUnit) : (b.onParity f).key = b.key := rfl
@[simp] theorem Bridge.onMember_key (b : Bridge) (m : Nat) (f : Member → Member) : (b.onMember m f).key = b.key := by
  simp [Bridge.key, Bridge.onMember, Bridge.refreshHealth]
@[simp] theorem Bridge.onShelf_key (b : Bridge) (p : Nat) (f : ShelfPort → ShelfPort) : (b.onShelf p f).key = b.key := by
  simp [Bridge.key, Bridge.onShelf]
@[simp] theorem Bridge.setWaitList_key (b : Bridge) (c : CommandClass) (l : List (List DriveCommand)) :
    (b.setWaitList c l).key = b.key := by
  cases c <;> rfl
@[simp] theorem Bridge.onDiscovery_key (b : Bridge) (f : Discovery → Discovery) : (b.onDiscovery f).key = b.key := rfl

/-- A change of a request that keeps its tag and kind. -/
theorem Bridge.onRequest_key (b : Bridge) (tag : Nat) (f : Request → Request)
    (h : ∀ r, ((f r).tag, (f r).kind) = (r.tag, r.kind)) : (b.onRequest tag f).key = b.key := by
  have : ∀ r : Request, (((if r.tag == tag then f r else r)).tag, ((if r.tag == tag then f r else r)).kind)
      = (r.tag, r.kind) := fun r => by split <;> simp [h]
  simp only [Bridge.key, Bridge.onRequest, List.map_map, Function.comp_def, this]

@[simp] theorem Bridge.onPiece_key (b : Bridge) (tag index : Nat) (f : Piece → Piece) :
    (b.onPiece tag index f).key = b.key :=
  b.onRequest_key tag _ (fun _ => rfl)

/-- What every step of a fold leaves, the fold leaves. -/
theorem foldl_key {α : Type} (f : Bridge → α → Bridge) (h : ∀ b a, (f b a).key = b.key) (l : List α) (b : Bridge) :
    (l.foldl f b).key = b.key := by
  induction l generalizing b with
  | nil => rfl
  | cons a l ih => rw [List.foldl_cons, ih, h]

/-! The shelf ports. -/

@[simp] theorem Bridge.enqueue_key (b : Bridge) (step : List DriveCommand) : (b.enqueue step).key = b.key :=
  foldl_key _ (fun b _ => b.onShelf_key _ _) step b

@[simp] theorem Bridge.issueStep_key (b : Bridge) (cls : CommandClass) (step : List DriveCommand) :
    (b.issueStep cls step).key = b.key := by
  unfold Bridge.issueStep
  dsimp only
  split
  · simp
  · split <;> simp

@[simp] theorem Bridge.freeTag_key (b : Bridge) (port tag : Nat) : (b.freeTag port tag).key = b.key := by
  simp [Bridge.freeTag]

theorem Bridge.admitWaiting_key {b b' : Bridge} {cls : CommandClass} (h : b.admitWaiting cls = some b') :
    b'.key = b.key := by
  unfold Bridge.admitWaiting at h
  split at h
  · simp at h
  · split at h
    · simp only [Option.some.injEq] at h
      simp [← h]
    · simp at h

theorem Bridge.grantAt_key {cfg : Settings} {b b' : Bridge} {port : Nat} (h : b.grantAt cfg port = some b') :
    b'.key = b.key := by
  unfold Bridge.grantAt at h
  dsimp only at h
  split at h
  · split at h
    · simp at h
    · split at h
      · simp at h
      · simp only [Option.some.injEq] at h
        simp [← h]
  · simp at h

theorem Bridge.pump_key {cfg : Settings} {b b' : Bridge} (h : b.pump cfg = some b') : b'.key = b.key := by
  unfold Bridge.pump at h
  split at h
  · rename_i hb
    simp only [Option.some.injEq] at h
    exact h ▸ Bridge.admitWaiting_key hb
  · split at h
    · rename_i hb
      simp only [Option.some.injEq] at h
      exact h ▸ Bridge.admitWaiting_key hb
    · obtain ⟨p, -, hp⟩ := List.exists_of_findSome?_eq_some h
      exact Bridge.grantAt_key hp

/-! The parity unit. -/

@[simp] theorem Bridge.onService_key (b : Bridge) (w : Work) (f : Service → Service) : (b.onService w f).key = b.key := rfl
@[simp] theorem Bridge.dropService_key (b : Bridge) (w : Work) : (b.dropService w).key = b.key := rfl
@[simp] theorem Bridge.markIssued_key (b : Bridge) (w : Work) : (b.markIssued w).key = b.key := by
  cases w <;> simp [Bridge.markIssued]
@[simp] theorem Bridge.markWaiting_key (b : Bridge) (w : Work) : (b.markWaiting w).key = b.key := by
  cases w <;> simp [Bridge.markWaiting]
@[simp] theorem Bridge.beginStep_key (b : Bridge) (s : Service) (step : ServiceStep) : (b.beginStep s step).key = b.key := by
  simp [Bridge.beginStep]
@[simp] theorem Bridge.unserved_key (b : Bridge) (w : Work) : (b.unserved w).key = b.key := by
  cases w <;> rfl
@[simp] theorem Bridge.decideAndBegin_key (b : Bridge) (s : Service) : (b.decideAndBegin s).key = b.key := by
  unfold Bridge.decideAndBegin
  split <;> simp
@[simp] theorem Bridge.requestLock_key (b : Bridge) (s : Service) : (b.requestLock s).key = b.key := by
  unfold Bridge.requestLock
  dsimp only
  split
  · simp
  · split <;> simp
@[simp] theorem Bridge.takeHandOver_key (b : Bridge) (w : Work) (write : Bool) (p : Place) :
    (b.takeHandOver w write p).key = b.key := by
  unfold Bridge.takeHandOver
  dsimp only
  split <;> simp
@[simp] theorem Bridge.beginService_key (b : Bridge) (w : Work) : (b.beginService w).key = b.key := by
  unfold Bridge.beginService
  split <;> simp
@[simp] theorem Bridge.takeAllocation_key (b : Bridge) : b.takeAllocation.key = b.key := by
  unfold Bridge.takeAllocation
  refine (foldl_key _ (fun b w => ?_) _ _).trans (b.onParity_key _)
  split
  · rfl
  · dsimp only
    split
    · simp
    · split <;> simp
@[simp] theorem Bridge.releaseLock_key (b : Bridge) (w : Work) : (b.releaseLock w).key = b.key := by
  unfold Bridge.releaseLock
  split
  · rfl
  · split <;> simp
@[simp] theorem Bridge.endService_key (b : Bridge) (w : Work) : (b.endService w).key = b.key := by
  simp [Bridge.endService]
@[simp] theorem Bridge.served_key (b : Bridge) (w : Work) (l : List Block) : (b.served w l).key = b.key := by
  cases w <;> simp [Bridge.served]
@[simp] theorem Bridge.decideAfter_key (b : Bridge) (s : Service) : (b.decideAfter s).key = b.key := by
  simp [Bridge.decideAfter]
@[simp] theorem Bridge.judgeStep_key (b : Bridge) (s : Service) : (b.judgeStep s).key = b.key := by
  unfold Bridge.judgeStep
  repeat' (first | split | simp)
@[simp] theorem Bridge.stepCommandEnded_key (b : Bridge) (w : Work) (r : StepRole) (e : Ending) :
    (b.stepCommandEnded w r e).key = b.key := by
  unfold Bridge.stepCommandEnded
  split
  · rfl
  · dsimp only
    split <;> simp
@[simp] theorem Bridge.judgeWork_key (b : Bridge) (w : Work) : (b.judgeWork w).key = b.key := by
  unfold Bridge.judgeWork
  split <;> simp
@[simp] theorem Bridge.withdrawStep_key (b : Bridge) (w : Work) : (b.withdrawStep w).key = b.key := by
  simp [Bridge.withdrawStep]
@[simp] theorem Bridge.decideAgain_key (b : Bridge) (w : Work) : (b.decideAgain w).key = b.key := by
  unfold Bridge.decideAgain
  split
  · rfl
  · split <;> simp
@[simp] theorem Bridge.withdrawChunks_key (b : Bridge) : b.withdrawChunks.key = b.key := by
  unfold Bridge.withdrawChunks
  exact (foldl_key _ (fun b (s : Service) => b.endService_key s.work) _ _).trans (b.onParity_key _)

/-! The router. -/

@[simp] theorem Bridge.recordDone_key (b : Bridge) (tag index : Nat) (o : PieceOutcome) (l : List Block) :
    (b.recordDone tag index o l).key = b.key := by
  unfold Bridge.recordDone
  split
  · rfl
  · dsimp only
    rw [Bridge.onRequest_key]
    · exact b.onPiece_key _ _ _
    · exact fun _ => rfl
@[simp] theorem Bridge.testGate_key (b : Bridge) : b.testGate.key = b.key := by
  unfold Bridge.testGate
  split
  · rfl
  · split <;> rfl
@[simp] theorem Bridge.routerDone_key (b : Bridge) (tag index : Nat) (slot : Option SlotId) :
    (b.routerDone tag index slot).key = b.key := by
  unfold Bridge.routerDone
  cases slot <;> simp <;> rfl
@[simp] theorem Bridge.enterCurrent_key (b : Bridge) (tag index row : Nat) : (b.enterCurrent tag index row).key = b.key := rfl
@[simp] theorem Bridge.serveInLayout_key (b : Bridge) (tag : Nat) (p : Piece) (c : PieceClass) (place : Place) :
    (b.serveInLayout tag p c place).key = b.key := by
  unfold Bridge.serveInLayout
  dsimp only
  repeat' (first | split | simp)
@[simp] theorem Bridge.serveSlotRead_key (b : Bridge) (tag : Nat) (p : Piece) (i : SlotId) (x y : Nat) :
    (b.serveSlotRead tag p i x y).key = b.key := by
  simp [Bridge.serveSlotRead]
@[simp] theorem Bridge.serveThrough_key (b : Bridge) (tag : Nat) (p : Piece) (i : SlotId) (x : Nat) (place : Place) :
    (b.serveThrough tag p i x place).key = b.key := by
  simp [Bridge.serveThrough]
@[simp] theorem Bridge.servePark_key (b : Bridge) (tag : Nat) (p : Piece) (t : Nat) : (b.servePark tag p t).key = b.key := by
  unfold Bridge.servePark
  split
  · simp
  · dsimp only
    split <;> exact b.onPiece_key _ _ _
@[simp] theorem Bridge.dispatchPiece_key (b : Bridge) (tag index : Nat) : (b.dispatchPiece tag index).key = b.key := by
  unfold Bridge.dispatchPiece
  repeat' (first | split | simp)
@[simp] theorem Bridge.releaseParked_key (b : Bridge) : b.releaseParked.key = b.key := by
  unfold Bridge.releaseParked
  split
  · rfl
  · refine (foldl_key _ (fun b e => ?_) _ _).trans rfl
    split
    · rfl
    · simp
@[simp] theorem Bridge.loseParked_key (b : Bridge) : b.loseParked.key = b.key := rfl
@[simp] theorem Bridge.plainReadEnded_key (b : Bridge) (tag index : Nat) (e : Ending) :
    (b.plainReadEnded tag index e).key = b.key := by
  unfold Bridge.plainReadEnded
  repeat' (first | split | simp)

/-! The engine. -/

@[simp] theorem Bridge.dropEngineSteps_key (b : Bridge) : b.dropEngineSteps.key = b.key := rfl
@[simp] theorem Bridge.failEngine_key (b : Bridge) : b.failEngine.key = b.key := by
  unfold Bridge.failEngine
  split
  · rfl
  · simp only [Bridge.raise_key, Bridge.loseParked_key, Bridge.withdrawChunks_key, Bridge.dropEngineSteps_key]
    rfl
@[simp] theorem Bridge.enterHeld_key (b : Bridge) : b.enterHeld.key = b.key := by
  unfold Bridge.enterHeld
  dsimp only
  split <;> simp
@[simp] theorem Bridge.allocateRow_key (b : Bridge) (i : SlotId) (row : Nat) : (b.allocateRow i row).key = b.key := by
  unfold Bridge.allocateRow
  split <;> rfl
@[simp] theorem Bridge.releaseGather_key (b : Bridge) (g : Gather) : (b.releaseGather g).key = b.key := by
  unfold Bridge.releaseGather
  dsimp only
  repeat' (first | split | simp | rfl)
@[simp] theorem Bridge.gatherPresent_key (b : Bridge) (a : BitVec 32) (l : List Block) : (b.gatherPresent a l).key = b.key := by
  unfold Bridge.gatherPresent
  split <;> rfl
@[simp] theorem Bridge.gatherEnded_key (b : Bridge) (a : BitVec 32) (e : Ending) : (b.gatherEnded a e).key = b.key := by
  unfold Bridge.gatherEnded
  repeat' (first | split | simp)
@[simp] theorem Bridge.issueWriteOut_key (b : Bridge) (i : SlotId) (row : Nat) : (b.issueWriteOut i row).key = b.key := by
  unfold Bridge.issueWriteOut
  dsimp only
  split <;> simp
@[simp] theorem Bridge.askGate_key (b : Bridge) (i : SlotId) (row : Nat) : (b.askGate i row).key = b.key := by
  unfold Bridge.askGate
  split
  · rfl
  · simp
@[simp] theorem Bridge.enterWriting_key (b : Bridge) (i : SlotId) (row : Nat) : (b.enterWriting i row).key = b.key := by
  simp [Bridge.enterWriting]
@[simp] theorem Bridge.gateOpened_key (b : Bridge) (row : Nat) : (b.gateOpened row).key = b.key := by
  unfold Bridge.gateOpened
  repeat' (first | split | simp)
@[simp] theorem Bridge.completeWriteOut_key (b : Bridge) (i : SlotId) (row : Nat) : (b.completeWriteOut i row).key = b.key := by
  simp [Bridge.completeWriteOut]
@[simp] theorem Bridge.writeOutEnded_key (b : Bridge) (i : SlotId) : (b.writeOutEnded i).key = b.key := by
  unfold Bridge.writeOutEnded
  dsimp only
  repeat' (first | split | simp)
@[simp] theorem Bridge.startCheckpoint_key (b : Bridge) (k : CheckpointKind) (s : Option (Nat × Nat)) :
    (b.startCheckpoint k s).key = b.key := by
  unfold Bridge.startCheckpoint
  dsimp only
  split <;> simp
@[simp] theorem Bridge.afterWriteOut_key (cfg : Settings) (b : Bridge) (row : Nat) : (b.afterWriteOut cfg row).key = b.key := by
  unfold Bridge.afterWriteOut
  dsimp only
  repeat' (first | split | simp)
@[simp] theorem Bridge.stageRow_key (b : Bridge) : b.stageRow.key = b.key := by
  unfold Bridge.stageRow
  dsimp only
  split <;> simp
@[simp] theorem Bridge.enterStaging_key (b : Bridge) (i : SlotId) : (b.enterStaging i).key = b.key := by
  simp [Bridge.enterStaging]
@[simp] theorem Bridge.stageWritten_key (b : Bridge) : b.stageWritten.key = b.key := by
  unfold Bridge.stageWritten
  repeat' (first | split | simp)
@[simp] theorem Bridge.stageWriteEnded_key (b : Bridge) (e : Ending) : (b.stageWriteEnded e).key = b.key := by
  unfold Bridge.stageWriteEnded
  dsimp only
  repeat' (first | split | simp)
@[simp] theorem Bridge.stageDurable_key (b : Bridge) : b.stageDurable.key = b.key := by
  unfold Bridge.stageDurable
  repeat' (first | split | simp)
@[simp] theorem Bridge.expansionDone_key (b : Bridge) : b.expansionDone.key = b.key := by
  simp [Bridge.expansionDone, Bridge.key, ArrayPort.afterFinal, Bridge.raise, Bridge.onEngine, Bridge.refreshHealth,
    Function.comp_def]
@[simp] theorem Bridge.initializationDone_key (b : Bridge) : b.initializationDone.key = b.key := rfl
@[simp] theorem Bridge.cancelDone_key (b : Bridge) : b.cancelDone.key = b.key := by
  simp [Bridge.cancelDone, Bridge.key, Bridge.onEngine, Bridge.refreshHealth]
@[simp] theorem Bridge.checkpointSucceeded_key (b : Bridge) (k : CheckpointKind) : (b.checkpointSucceeded k).key = b.key := by
  unfold Bridge.checkpointSucceeded
  repeat' (first | split | simp)
@[simp] theorem Bridge.checkpointEnded_key (b : Bridge) (c : Checkpoint) : (b.checkpointEnded c).key = b.key := by
  unfold Bridge.checkpointEnded
  split <;> simp
@[simp] theorem Bridge.checkpointWriteEnded_key (b : Bridge) (m : Nat) (e : Ending) :
    (b.checkpointWriteEnded m e).key = b.key := by
  unfold Bridge.checkpointWriteEnded
  dsimp only
  repeat' (first | split | simp)
@[simp] theorem Bridge.leaveFull_key (b : Bridge) (i : SlotId) (row : Nat) : (b.leaveFull i row).key = b.key := by
  unfold Bridge.leaveFull
  repeat' (first | split | simp)
theorem Bridge.engineAdvance_key {b b' : Bridge} (h : b.engineAdvance = some b') : b'.key = b.key := by
  unfold Bridge.engineAdvance at h
  repeat' (first | split at h | (simp only [Option.some.injEq, reduceCtorEq] at h) | (simp [← h]))

/-! Discovery and the probes of ADMIT. -/

@[simp] theorem Bridge.chooseWhenOver_key (b : Bridge) : b.chooseWhenOver.key = b.key := by
  unfold Bridge.chooseWhenOver
  repeat' (first | split | simp)
@[simp] theorem Bridge.discoveryProbeEnded_key (b : Bridge) (m : Nat) (c : Option Nat) :
    (b.discoveryProbeEnded m c).key = b.key := by
  unfold Bridge.discoveryProbeEnded
  dsimp only
  repeat' (first | split | simp)
@[simp] theorem Bridge.afterRecordRead_key (b : Bridge) (m : Nat) : (b.afterRecordRead m).key = b.key := by
  unfold Bridge.afterRecordRead
  dsimp only
  repeat' (first | split | simp)
@[simp] theorem Bridge.recordReadEnded_key (b : Bridge) (m : Nat) (odd : Bool) (o : RecordOutcome) :
    (b.recordReadEnded m odd o).key = b.key := by
  unfold Bridge.recordReadEnded
  dsimp only
  repeat' (first | split | simp | rfl)
@[simp] theorem Bridge.endDiscovery_key (b : Bridge) (v : VolumeState) : (b.endDiscovery v).key = b.key := rfl
@[simp] theorem Bridge.loseStage_key (b : Bridge) (row : Nat) : (b.loseStage row).key = b.key := by
  simp [Bridge.loseStage]
@[simp] theorem Bridge.beginStageRead_key (b : Bridge) (row column : Nat) : (b.beginStageRead row column).key = b.key := by
  unfold Bridge.beginStageRead
  dsimp only
  split <;> simp
@[simp] theorem Bridge.resumeFrom_key (b : Bridge) (r : Record) : (b.resumeFrom r).key = b.key := by
  unfold Bridge.resumeFrom
  dsimp only
  repeat' (first | split | simp)
@[simp] theorem Bridge.testNeeded_key (b : Bridge) (r : Record) : (b.testNeeded r).key = b.key := by
  unfold Bridge.testNeeded
  dsimp only
  repeat' (first | split | simp)
@[simp] theorem Bridge.adopt_key (b : Bridge) (d : Discovery) (c : Candidate) (r : Record) : (b.adopt d c r).key = b.key := by
  unfold Bridge.adopt
  dsimp only
  rw [Bridge.testNeeded_key]
  split <;> simp [Bridge.key, Discovery.roles, Bridge.onEngine, Bridge.refreshHealth, Bridge.raise]
@[simp] theorem Bridge.choose_key (b : Bridge) : b.choose.key = b.key := by
  unfold Bridge.choose
  repeat' (first | split | simp)
@[simp] theorem Bridge.stageReadEnded_key (b : Bridge) (p : Nat) (e : Ending) : (b.stageReadEnded p e).key = b.key := by
  unfold Bridge.stageReadEnded
  dsimp only
  repeat' (first | split | simp [Bridge.stageCopyRead])
@[simp] theorem Bridge.admitProbeEnded_key (b : Bridge) (m : Nat) (c : Option Nat) : (b.admitProbeEnded m c).key = b.key :=
  b.onMember_key m _
@[simp] theorem Bridge.deliver_key (b : Bridge) (c : DriveCommand) (e : Ending) : (b.deliver c e).key = b.key := by
  unfold Bridge.deliver
  split <;> simp
/-! The failure of a member. -/

@[simp] theorem Bridge.markFailed_key (b : Bridge) (m : Nat) : (b.markFailed m).key = b.key := by
  simp [Bridge.key, Bridge.markFailed]
@[simp] theorem Bridge.withoutMember_key (b : Bridge) (m : Nat) : (b.withoutMember m).key = b.key :=
  b.onShelf_key _ _
@[simp] theorem Bridge.takeEnd_key (b : Bridge) (e : MemberEnd) : (b.takeEnd e).key = b.key := by
  cases e <;> simp [Bridge.takeEnd]
@[simp] theorem Bridge.commandsFail_key (b : Bridge) (m : Nat) : (b.commandsFail m).key = b.key :=
  (foldl_key _ Bridge.takeEnd_key _ _).trans (b.withoutMember_key m)
@[simp] theorem Bridge.engineLearns_key (b : Bridge) (m : Nat) (w : Bool) : (b.engineLearns m w).key = b.key := by
  unfold Bridge.engineLearns
  repeat' (first | split | simp)
@[simp] theorem Bridge.declareFailed_key (b : Bridge) (m : Nat) : (b.declareFailed m).key = b.key := by
  simp [Bridge.declareFailed]
@[simp] theorem Bridge.raiseMedia_key (b : Bridge) (m : Nat) : (b.raiseMedia m).key = b.key := by
  simp [Bridge.raiseMedia]
@[simp] theorem Bridge.failCommand_key (b : Bridge) (port : Nat) (e : TagEntry) : (b.failCommand port e).key = b.key := by
  unfold Bridge.failCommand
  split <;> simp

theorem Bridge.dispatchNext_key {b b' : Bridge} (h : b.dispatchNext = some b') : b'.key = b.key := by
  unfold Bridge.dispatchNext at h
  repeat' (first | split at h | (simp only [Option.some.injEq, reduceCtorEq] at h) | (simp [← h]))

/-! Events keep the request table and the shape of the part sound. -/

/-- The request table is sound, and the part has its ports and members. -/
def Bridge.sound (b : Bridge) : Prop := b.port.sound ∧ b.shaped

theorem foregroundCount_key (table : List Request) :
    foregroundCount table = ((table.map (fun r => (r.tag, r.kind))).filter (fun e => e.2.counts)).length := by
  simp [foregroundCount, List.filter_map, Function.comp_def]

/-- Soundness depends on the key alone. -/
theorem Bridge.sound_of_key {b b' : Bridge} (hk : b'.key = b.key) (h : b.sound) : b'.sound := by
  obtain ⟨⟨hf, hn, ht⟩, hs, hm⟩ := h
  simp only [Bridge.key, Prod.mk.injEq] at hk
  obtain ⟨ht', hf', hs', hm'⟩ := hk
  have tags : b'.port.table.map Request.tag = b.port.table.map Request.tag := by
    simpa [List.map_map, Function.comp_def] using congrArg (List.map Prod.fst) ht'
  refine ⟨⟨?_, ?_, fun r hr => ?_⟩, ?_, ?_⟩
  · rw [hf', hf, foregroundCount_key, foregroundCount_key, ht']
  · rw [tags]; exact hn
  · have : r.tag ∈ b.port.table.map Request.tag := tags ▸ List.mem_map_of_mem hr
    obtain ⟨x, hx, hxt⟩ := List.mem_map.1 this
    exact hxt ▸ ht x hx
  · rw [hs', hs]
  · rw [hm', hm]

/-- Entries that leave the table leave the other entries as they stand. -/
theorem ArrayPort.filter_tags {p : ArrayPort} (h : p.sound) (f : Request → Bool) :
    ((p.table.filter f).map Request.tag).Nodup ∧ ∀ r ∈ p.table.filter f, r.tag < Config.requestTags :=
  ⟨h.2.1.sublist (List.filter_sublist.map _), fun r hr => h.2.2 r (List.mem_of_mem_filter hr)⟩

/-- A FLUSH that completes leaves F as it is. -/
theorem Bridge.sendCompletion_flush {b : Bridge} {r : Request} (h : b.sound) (hr : r ∈ b.port.table)
    (hk : r.kind = .flush) : (b.sendCompletion r).sound := by
  obtain ⟨hp, hs⟩ := h
  have tags := ArrayPort.filter_tags hp (fun x => x.tag != r.tag)
  refine ⟨⟨?_, tags.1, tags.2⟩, hs⟩
  show b.port.foreground = foregroundCount (b.port.table.filter (fun x => x.tag != r.tag))
  rw [hp.1, foregroundCount, foregroundCount, List.filter_filter]
  congr 1
  refine List.filter_congr (fun x hx => ?_)
  by_cases hxt : x.tag = r.tag
  · rw [List.inj_on_of_nodup_map hp.2.1 hx hr hxt, hk]
    rfl
  · simp [hxt]

/-- The test of the FLUSH entries keeps the table sound. -/
theorem Bridge.testFlushes_sound {b : Bridge} (h : b.sound) : b.testFlushes.sound := by
  have main : ∀ (l : List Request) (c : Bridge), c.sound → (∀ r ∈ l, r.kind = .flush) → (l.map Request.tag).Nodup →
      (∀ r ∈ l, r ∈ c.port.table) →
      (l.foldl (fun b r => if b.port.flushWaits r then b else b.sendCompletion r) c).sound := by
    intro l
    induction l with
    | nil => exact fun c hc _ _ _ => hc
    | cons r l ih =>
        intro c hc hk hn hm
        rw [List.map_cons, List.nodup_cons] at hn
        have rest : ∀ x ∈ l, x.kind = .flush := fun x hx => hk x (List.mem_cons_of_mem _ hx)
        rw [List.foldl_cons]
        split
        · exact ih c hc rest hn.2 (fun x hx => hm x (List.mem_cons_of_mem _ hx))
        · refine ih _ (Bridge.sendCompletion_flush hc (hm r List.mem_cons_self) (hk r List.mem_cons_self)) rest hn.2
            (fun x hx => ?_)
          refine List.mem_filter.2 ⟨hm x (List.mem_cons_of_mem _ hx), ?_⟩
          have : x.tag ≠ r.tag := fun he => hn.1 (he ▸ List.mem_map_of_mem hx)
          simpa using this
  refine main _ b h (fun r hr => ?_) (ArrayPort.filter_tags h.1 _).1 (fun r hr => List.mem_of_mem_filter hr)
  simpa using (List.mem_filter.1 hr).2

/-- A change of F that is counted anew keeps the table sound. -/
theorem Bridge.foregroundChanged_sound {cfg : Settings} {b : Bridge} (hn : (b.port.table.map Request.tag).Nodup)
    (ht : ∀ r ∈ b.port.table, r.tag < Config.requestTags) (hs : b.shaped) : (b.foregroundChanged cfg).sound :=
  ⟨⟨rfl, hn, ht⟩, hs⟩

theorem Bridge.testRequest_sound {cfg : Settings} {b : Bridge} (h : b.sound) (tag : Nat) :
    (b.testRequest cfg tag).sound := by
  unfold Bridge.testRequest
  split
  · exact h
  · rename_i r _
    split
    · have tags := ArrayPort.filter_tags h.1 (fun x => x.tag != r.tag)
      exact Bridge.testFlushes_sound (Bridge.foregroundChanged_sound tags.1 tags.2 h.2)
    · exact h

/-- The end of a piece keeps the table sound. -/
theorem Bridge.finishPiece_sound {cfg : Settings} {b : Bridge} (h : b.sound) (tag index : Nat) (o : PieceOutcome)
    (l : List Block) : (b.finishPiece cfg tag index o l).sound := by
  unfold Bridge.finishPiece
  split
  · exact h
  · dsimp only
    have : ((b.recordDone tag index o l).testRequest cfg tag).sound :=
      Bridge.testRequest_sound (Bridge.sound_of_key (b.recordDone_key _ _ _ _) h) tag
    exact Bridge.sound_of_key ((Bridge.endService_key _ _).trans (Bridge.routerDone_key _ _ _ _)) this

/-- Every inner action keeps the table sound. -/
theorem Bridge.perform_sound {cfg : Settings} {b : Bridge} (h : b.sound) (a : Action) : (b.perform cfg a).sound := by
  cases a with
  | finishPiece tag index o l => exact Bridge.finishPiece_sound h tag index o l
  | handOver work write =>
      refine Bridge.sound_of_key ?_ h
      simp only [Bridge.perform]
      split <;> simp
  | _ => exact Bridge.sound_of_key (by simp [Bridge.perform]) h

/-- Every thing that happens in an event keeps the table sound. -/
theorem Bridge.tick_sound {cfg : Settings} (b b' : Bridge) (h : b.sound) (ht : b.tick cfg = some b') : b'.sound := by
  rcases Bridge.tick_cases ht with ⟨a, rest, -, rfl⟩ | ⟨-, hp⟩ | ⟨-, -, hd⟩ | ⟨-, -, -, he⟩
  · exact Bridge.perform_sound (b := { b with work := [] }) h a
  · exact Bridge.sound_of_key (Bridge.pump_key hp) h
  · exact Bridge.sound_of_key (Bridge.dispatchNext_key hd) h
  · exact Bridge.sound_of_key (Bridge.engineAdvance_key he) h

/-- A whole event keeps the table sound. -/
theorem Bridge.settle_sound {cfg : Settings} {b : Bridge} (h : b.sound) : (b.settle cfg).sound :=
  Bridge.settle_keeps Bridge.tick_sound b h

end Sys2Proof.Machine
end

