-- ==== Sys2Proof/Laws/Locks.lean ====
section
/-! SUPPORT. What asking for a row lock and releasing one do (R116, R117): one lemma for each case; and what the end of
services does to the locks of other work where no gather chunk waits (R118). -/

namespace Sys2Proof.Machine

open Sys2Proof

/-! The key of an entry. -/

/-- An entry has a key when its layout and row are those (R114). -/
theorem LockEntry.keyed_iff (e : LockEntry) (layout : Layout) (row : Nat) :
    e.keyed layout row = true ↔ e.layout = layout ∧ e.row = row := by
  simp [LockEntry.keyed]

/-- The entry of a lock table that is split around it is the only one of its key. -/
theorem ParityUnit.locksSound.others {p : ParityUnit} (sound : p.locksSound) {before after : List LockEntry}
    {e : LockEntry} (split : p.locks = before ++ e :: after) :
    (∀ x ∈ before, x.keyed e.layout e.row = false) ∧ ∀ x ∈ after, x.keyed e.layout e.row = false := by
  have keys := sound.1
  rw [split, List.map_append, List.map_cons, List.nodup_append, List.nodup_cons] at keys
  obtain ⟨-, ⟨fresh, -⟩, apart⟩ := keys
  constructor
  · intro x hx
    refine Bool.eq_false_iff.2 fun same => apart _ (List.mem_map_of_mem hx) (e.layout, e.row) (by simp) ?_
    obtain ⟨h, h'⟩ := (x.keyed_iff _ _).1 same
    rw [h, h']
  · intro x hx
    refine Bool.eq_false_iff.2 fun same => fresh (List.mem_map.2 ⟨x, hx, ?_⟩)
    obtain ⟨h, h'⟩ := (x.keyed_iff _ _).1 same
    rw [h, h']

/-! Asking for a lock (R116). -/

/-- With an entry of its key the work joins the FIFO. -/
theorem Bridge.requestLock_joins {b : Bridge} {s : Service}
    (h : b.parity.locks.any (fun e => e.keyed s.place.layout s.place.row) = true) :
    b.requestLock s
      = (b.onParity (fun p => p.joinFifo s.place.layout s.place.row s.work)).markWaiting s.work :=
  if_pos h

/-- With no entry of its key and a free one the work is the holder of a new entry, and begins. -/
theorem Bridge.requestLock_takes {b : Bridge} {s : Service}
    (h : b.parity.locks.any (fun e => e.keyed s.place.layout s.place.row) = false)
    (room : b.parity.locks.length < Config.lockEntries) :
    b.requestLock s =
      (b.onParity (fun p =>
        { p with locks := p.locks ++
            [{ layout := s.place.layout, row := s.place.row, holder := s.work, waiters := [] }] })).decideAndBegin s := by
  unfold Bridge.requestLock
  dsimp only
  rw [if_neg (by simp [h]), if_pos room]

/-- With no entry of its key and none free the work joins the allocation wait list. -/
theorem Bridge.requestLock_waits {b : Bridge} {s : Service}
    (h : b.parity.locks.any (fun e => e.keyed s.place.layout s.place.row) = false)
    (taken : Config.lockEntries ≤ b.parity.locks.length) :
    b.requestLock s
      = (b.onParity (fun p => { p with allocation := p.allocation ++ [s.work] })).markWaiting s.work := by
  unfold Bridge.requestLock
  dsimp only
  rw [if_neg (by simp [h]), if_neg (Nat.not_lt.2 taken)]

/-! Releasing a lock (R117). -/

/-- Work that holds no lock releases none. -/
theorem Bridge.releaseLock_none {b : Bridge} {w : Work} (h : b.parity.locks.find? (fun e => e.holder == w) = none) :
    b.releaseLock w = b := by
  simp [Bridge.releaseLock, h]

/-- The lock of an entry with waiters goes to the first of them, which begins. -/
theorem Bridge.releaseLock_passes {b : Bridge} {w next : Work} {rest : List Work} {before after : List LockEntry}
    {e : LockEntry} (sound : b.parity.locksSound) (split : b.parity.locks = before ++ e :: after)
    (first : b.parity.locks.find? (fun e => e.holder == w) = some e) (waiters : e.waiters = next :: rest) :
    b.releaseLock w =
      (b.onParity (fun p => { p with locks := before ++ { e with holder := next, waiters := rest } :: after })).push
        [.beginService next] := by
  obtain ⟨hb, ha⟩ := sound.others split
  have kept : ∀ l : List LockEntry, (∀ x ∈ l, x.keyed e.layout e.row = false) →
      l.map (fun x => if x.keyed e.layout e.row then { x with holder := next, waiters := rest } else x) = l :=
    fun l h => (List.map_congr_left fun x hx => by simp [h x hx]).trans (List.map_id l)
  have passed :
      b.parity.locks.map (fun x => if x.keyed e.layout e.row then { x with holder := next, waiters := rest } else x)
        = before ++ { e with holder := next, waiters := rest } :: after := by
    rw [split, List.map_append, List.map_cons, kept before hb, kept after ha, if_pos ((e.keyed_iff _ _).2 ⟨rfl, rfl⟩)]
  simp only [Bridge.releaseLock, first, waiters, Bridge.onParity, passed]

/-- The entry of a lock with no waiters is freed, and the allocation wait list is taken. -/
theorem Bridge.releaseLock_frees {b : Bridge} {w : Work} {before after : List LockEntry} {e : LockEntry}
    (sound : b.parity.locksSound) (split : b.parity.locks = before ++ e :: after)
    (first : b.parity.locks.find? (fun e => e.holder == w) = some e) (waiters : e.waiters = []) :
    b.releaseLock w = (b.onParity (fun p => { p with locks := before ++ after })).takeAllocation := by
  obtain ⟨hb, ha⟩ := sound.others split
  have kept : ∀ l : List LockEntry, (∀ x ∈ l, x.keyed e.layout e.row = false) →
      l.filter (fun x => !x.keyed e.layout e.row) = l :=
    fun l h => List.filter_eq_self.2 fun x hx => by simp [h x hx]
  have freed : b.parity.locks.filter (fun x => !x.keyed e.layout e.row) = before ++ after := by
    rw [split, List.filter_append, List.filter_cons, kept before hb, kept after ha,
      if_neg (by simp [(e.keyed_iff _ _).2 ⟨rfl, rfl⟩])]
  simp only [Bridge.releaseLock, first, waiters, Bridge.onParity, freed]

/-! The end of services where no gather chunk waits (R118). -/

/-- The lock table is sound, and no gather chunk waits for a lock. -/
structure ParityUnit.chunkFree (p : ParityUnit) : Prop where
  sound : p.locksSound
  allocation : ∀ w ∈ p.allocation, w.isChunk = false
  waiters : ∀ e ∈ p.locks, ∀ w ∈ e.waiters, w.isChunk = false

/-- An entry stands with its key and holder, its waiters the first of those there. -/
def ParityUnit.keeps (p : ParityUnit) (e : LockEntry) : Prop :=
  ∃ x ∈ p.locks, x.layout = e.layout ∧ x.row = e.row ∧ x.holder = e.holder ∧ e.waiters <+: x.waiters

/-- One parity unit after another: still with no chunk waiting, every lock of the first that `mine` names kept. -/
def ParityUnit.follows (mine : LockEntry → Prop) (p q : ParityUnit) : Prop :=
  q.chunkFree ∧ ∀ e, mine e → p.keeps e → q.keeps e

theorem ParityUnit.follows.trans {mine : LockEntry → Prop} {p q r : ParityUnit} (h : p.follows mine q)
    (h' : q.follows mine r) : p.follows mine r :=
  ⟨h'.1, fun e m k => h'.2 e m (h.2 e m k)⟩

/-- Work that joins a FIFO leaves the keys as they are. -/
theorem ParityUnit.joinFifo_sound {p : ParityUnit} (h : p.locksSound) (layout : Layout) (row : Nat) (w : Work) :
    (p.joinFifo layout row w).locksSound := by
  unfold ParityUnit.locksSound ParityUnit.joinFifo at *
  simp only [List.map_map, List.length_map]
  refine ⟨?_, h.2⟩
  convert h.1 using 2
  funext e
  simp only [Function.comp]
  split <;> rfl

/-- Other work that joins a FIFO. -/
theorem ParityUnit.joinFifo_follows {p : ParityUnit} (h : p.chunkFree) {w : Work} (piece : w.isChunk = false)
    (layout : Layout) (row : Nat) : p.follows (fun _ => True) (p.joinFifo layout row w) := by
  refine ⟨⟨ParityUnit.joinFifo_sound h.sound _ _ _, h.allocation, fun e he x hx => ?_⟩, ?_⟩
  · obtain ⟨y, hy, rfl⟩ := List.mem_map.1 he
    split at hx
    · rcases List.mem_append.1 hx with hx | hx
      · exact h.waiters y hy x hx
      · rwa [List.mem_singleton.1 hx]
    · exact h.waiters y hy x hx
  · rintro e - ⟨y, hy, layout, row, holder, first⟩
    refine ⟨_, List.mem_map_of_mem hy, ?_⟩
    split
    · exact ⟨layout, row, holder, first.trans (List.prefix_append _ _)⟩
    · exact ⟨layout, row, holder, first⟩

/-- Work that takes a free entry of a key that has none. -/
theorem ParityUnit.takeEntry_follows {p : ParityUnit} (h : p.chunkFree) {layout : Layout} {row : Nat} (w : Work)
    (fresh : ¬p.locks.any (fun e => e.keyed layout row) = true) (room : p.locks.length < Config.lockEntries) :
    p.follows (fun _ => True)
      { p with locks := p.locks ++ [{ layout := layout, row := row, holder := w, waiters := [] }] } := by
  refine ⟨⟨⟨?_, ?_⟩, h.allocation, fun e he x hx => ?_⟩, ?_⟩
  · rw [List.map_append, List.nodup_append]
    refine ⟨h.sound.1, by simp, fun a ha b hb same => ?_⟩
    obtain ⟨e, he, rfl⟩ := List.mem_map.1 ha
    simp only [List.map_cons, List.map_nil, List.mem_singleton] at hb
    rw [hb, Prod.mk.injEq] at same
    exact fresh (List.any_eq_true.2 ⟨e, he, (e.keyed_iff _ _).2 same⟩)
  · simpa using room
  · rcases List.mem_append.1 he with he | he
    · exact h.waiters e he x hx
    · rw [List.mem_singleton.1 he] at hx
      exact absurd hx (by simp)
  · rintro e - ⟨x, hx, kept⟩
    exact ⟨x, List.mem_append_left _ hx, kept⟩

/-- The allocation wait list is taken: every lock is kept, and no service changes. -/
theorem Bridge.takeAllocation_follows {b : Bridge} (h : b.parity.chunkFree) :
    b.parity.follows (fun _ => True) b.takeAllocation.parity
      ∧ b.takeAllocation.parity.services = b.parity.services := by
  have start : b.parity.follows (fun _ => True) { b.parity with allocation := [] } :=
    ⟨⟨h.sound, by simp, h.waiters⟩, fun _ _ k => k⟩
  unfold Bridge.takeAllocation
  dsimp only
  generalize hl : b.parity.allocation = l
  have pieces : ∀ w ∈ l, w.isChunk = false := hl ▸ h.allocation
  clear hl
  revert start
  generalize hc : b.onParity (fun p => { p with allocation := [] }) = c
  rw [show ({ b.parity with allocation := [] } : ParityUnit) = c.parity by rw [← hc]; rfl]
  have services : c.parity.services = b.parity.services := by rw [← hc]; rfl
  clear hc
  intro start
  induction l generalizing c with
  | nil => exact ⟨start, services⟩
  | cons w l ih =>
    rw [List.foldl_cons]
    have rest : ∀ x ∈ l, x.isChunk = false := fun x hx => pieces x (List.mem_cons_of_mem w hx)
    have piece : w.isChunk = false := pieces w List.mem_cons_self
    cases c.service? w with
    | none => exact ih rest c services start
    | some s =>
      dsimp only
      split
      · exact ih rest _ services (start.trans (ParityUnit.joinFifo_follows start.1 piece _ _))
      · rename_i fresh
        split
        · rename_i room
          exact ih rest _ services (start.trans (ParityUnit.takeEntry_follows start.1 w fresh room))
        · refine ih rest _ services (start.trans ⟨⟨start.1.sound, fun x hx => ?_, start.1.waiters⟩, fun _ _ k => k⟩)
          rcases List.mem_append.1 hx with hx | hx
          · exact start.1.allocation x hx
          · rwa [List.mem_singleton.1 hx]

/-- The end of a service: every lock that the work does not hold is kept, and no other service changes. -/
theorem Bridge.endService_follows {b : Bridge} (h : b.parity.chunkFree) (w : Work) :
    b.parity.follows (fun e => e.holder ≠ w) (b.endService w).parity
      ∧ (b.endService w).parity.services = b.parity.services.filter (fun s => s.work != w) := by
  have dropped : (b.dropService w).parity.chunkFree := ⟨h.sound, h.allocation, h.waiters⟩
  unfold Bridge.endService
  cases first : (b.dropService w).parity.locks.find? (fun e => e.holder == w) with
  | none =>
    rw [Bridge.releaseLock_none first]
    exact ⟨⟨dropped, fun _ _ k => k⟩, rfl⟩
  | some x =>
    have holder : x.holder = w := by simpa using List.find?_some first
    obtain ⟨-, before, after, split, -⟩ := List.find?_eq_some_iff_append.1 first
    have others : ∀ y ∈ before ++ after, y ∈ (b.dropService w).parity.locks := by
      intro y hy
      rw [split]
      rcases List.mem_append.1 hy with hy | hy
      · exact List.mem_append_left _ hy
      · exact List.mem_append_right _ (List.mem_cons_of_mem x hy)
    have kept : ∀ e, e.holder ≠ w → b.parity.keeps e →
        ({ b.parity with locks := before ++ after } : ParityUnit).keeps e := by
      rintro e apart ⟨y, hy, k⟩
      refine ⟨y, ?_, k⟩
      have hy : y ∈ before ++ x :: after := split ▸ hy
      rcases List.mem_append.1 hy with hy | hy
      · exact List.mem_append_left _ hy
      · rcases List.mem_cons.1 hy with rfl | hy
        · exact absurd (k.2.2.1 ▸ holder) apart
        · exact List.mem_append_right _ hy
    cases waiting : x.waiters with
    | nil =>
      rw [Bridge.releaseLock_frees dropped.sound split first waiting]
      have freed : ((b.dropService w).onParity (fun p => { p with locks := before ++ after })).parity.chunkFree := by
        refine ⟨⟨?_, ?_⟩, h.allocation, fun e he => dropped.waiters e (others e he)⟩
        · have keys := dropped.sound.1
          rw [split] at keys
          exact keys.sublist (by simp [Bridge.onParity])
        · have length := dropped.sound.2
          rw [split] at length
          simp only [List.length_append, List.length_cons, Bridge.onParity] at length ⊢
          omega
      obtain ⟨taken, services⟩ := Bridge.takeAllocation_follows freed
      exact ⟨⟨taken.1, fun e apart k => taken.2 e trivial (kept e apart k)⟩, services⟩
    | cons next rest =>
      rw [Bridge.releaseLock_passes dropped.sound split first waiting]
      refine ⟨⟨⟨⟨?_, ?_⟩, h.allocation, fun e he y hy => ?_⟩, fun e apart k => ?_⟩, rfl⟩
      · have keys := dropped.sound.1
        rw [split] at keys
        simpa [Bridge.onParity, Bridge.push] using keys
      · have length := dropped.sound.2
        rw [split] at length
        simpa [Bridge.onParity, Bridge.push] using length
      · rcases List.mem_append.1 he with he | he
        · exact dropped.waiters e (others e (List.mem_append_left _ he)) y hy
        · rcases List.mem_cons.1 he with rfl | he
          · exact dropped.waiters x (by rw [split]; simp) y (by rw [waiting]; exact List.mem_cons_of_mem next hy)
          · exact dropped.waiters e (others e (List.mem_append_right _ he)) y hy
      · obtain ⟨y, hy, k⟩ := kept e apart k
        refine ⟨y, ?_, k⟩
        rcases List.mem_append.1 hy with hy | hy
        · exact List.mem_append_left _ hy
        · exact List.mem_append_right _ (List.mem_cons_of_mem _ hy)

/-- The end of several services: every lock that none of the work holds is kept, and no other service changes. -/
theorem Bridge.foldl_endService_follows (l : List Work) {b : Bridge} (h : b.parity.chunkFree) :
    b.parity.follows (fun e => e.holder ∉ l) (l.foldl Bridge.endService b).parity
      ∧ (l.foldl Bridge.endService b).parity.services = b.parity.services.filter (fun s => s.work ∉ l) := by
  induction l generalizing b with
  | nil => exact ⟨⟨h, fun _ _ k => k⟩, by simp⟩
  | cons w l ih =>
    obtain ⟨ended, services⟩ := Bridge.endService_follows h w
    obtain ⟨later, services'⟩ := ih ended.1
    rw [List.foldl_cons]
    refine ⟨⟨later.1, fun e apart k => ?_⟩, ?_⟩
    · have apart : e.holder ≠ w ∧ e.holder ∉ l := by simpa using apart
      exact later.2 e apart.2 (ended.2 e apart.1 k)
    · rw [services', services, List.filter_filter]
      refine List.filter_congr fun s _ => ?_
      by_cases same : s.work = w <;> simp [same]

end Sys2Proof.Machine
end

