-- ==== Sys2Proof/Laws/Pieces.lean ====
section
/-! SUPPORT. How a change of one piece, and of another part of the bridge, shows in the piece that a tag and an index
name, and what the tests for completion leave alone. -/

namespace Sys2Proof.Machine

open Sys2Proof

/-- A search by a key that a map leaves alone finds the mapped entry. -/
theorem find?_map_key {α : Type} (l : List α) (f : α → α) (key : α → Bool) (h : ∀ x, key (f x) = key x) :
    (l.map f).find? key = (l.find? key).map f := by
  rw [List.find?_map]
  congr 2
  exact funext h

/-- The request of a tag after a change of the request of a tag. -/
theorem Bridge.onRequest_request? (b : Bridge) (tag t : Nat) (f : Request → Request) (hf : ∀ r, (f r).tag = r.tag) :
    (b.onRequest tag f).port.request? t = (b.port.request? t).map (fun r => if r.tag == tag then f r else r) :=
  find?_map_key _ _ _ fun r => by split <;> simp [hf]

/-- The request of a tag after a change of one piece. -/
theorem Bridge.onPiece_request? (b : Bridge) (tag index t : Nat) (f : Piece → Piece) :
    (b.onPiece tag index f).port.request? t = (b.port.request? t).map (fun r =>
      if r.tag == tag then { r with pieces := r.pieces.map (fun p => if p.index == index then f p else p) } else r) :=
  b.onRequest_request? tag t _ fun _ => rfl

/-- A changed piece is found changed. -/
theorem Bridge.onPiece_piece? {b : Bridge} {tag index : Nat} {p : Piece} (h : b.piece? tag index = some p)
    (f : Piece → Piece) (hf : ∀ p, (f p).index = p.index) : (b.onPiece tag index f).piece? tag index = some (f p) := by
  obtain ⟨r, hr, hp⟩ := Option.bind_eq_some_iff.1 h
  have found : (r.pieces.map (fun q => if q.index == index then f q else q)).find? (fun q => q.index == index)
      = some (f p) := by
    rw [find?_map_key _ _ _ fun q => by split <;> simp [hf], hp, Option.map_some, if_pos (List.find?_some hp)]
  unfold Bridge.piece?
  rw [Bridge.onPiece_request?, hr, Option.map_some, if_pos (List.find?_some hr)]
  exact found

/-- Every other piece stands. -/
theorem Bridge.onPiece_other {b : Bridge} {tag index t i : Nat} (other : ¬(t = tag ∧ i = index)) (f : Piece → Piece)
    (hf : ∀ p, (f p).index = p.index) : (b.onPiece tag index f).piece? t i = b.piece? t i := by
  unfold Bridge.piece?
  rw [Bridge.onPiece_request?]
  cases hr : b.port.request? t with
  | none => rfl
  | some r =>
      have ht : r.tag = t := by simpa using List.find?_some hr
      rw [Option.map_some, Option.bind_some, Option.bind_some]
      split
      case isFalse => rfl
      case isTrue same =>
        have away : index ≠ i := fun e => other ⟨ht ▸ (by simpa using same), e.symm⟩
        dsimp only
        rw [find?_map_key _ _ _ fun q => by split <;> simp [hf]]
        cases hp : r.pieces.find? (fun q => q.index == i) with
        | none => rfl
        | some q =>
            have hq : q.index = i := by simpa using List.find?_some hp
            rw [Option.map_some, if_neg (by simpa [hq] using away.symm)]

/-- The test of the FLUSH entries changes the array port and what is sent only. -/
theorem Bridge.testFlushes_only (b : Bridge) :
    b.testFlushes = { b with port := b.testFlushes.port, sent := b.testFlushes.sent } := by
  unfold Bridge.testFlushes
  generalize b.port.table.filter (fun r => r.kind == .flush) = entries
  induction entries generalizing b with
  | nil => rfl
  | cons entry rest ih =>
      rw [List.foldl_cons, ih]
      split <;> rfl

/-- The test of a request for its completion changes the array port, what is sent and the pacing mode only. -/
theorem Bridge.testRequest_only (cfg : Settings) (b : Bridge) (tag : Nat) :
    b.testRequest cfg tag =
      { b with
        port := (b.testRequest cfg tag).port, sent := (b.testRequest cfg tag).sent
        pacing := (b.testRequest cfg tag).pacing } := by
  unfold Bridge.testRequest
  split
  · rfl
  · split
    · rw [Bridge.testFlushes_only]
      rfl
    · rfl

end Sys2Proof.Machine
end

