-- ==== Sys2Proof/WellFormed.lean ====
section
/-! DEFINITION. When a command is one that the outside world can bring. -/

namespace Sys2Proof

/-- A body is in its one form when its left-over bytes fill no further block. -/
def Body.wellFormed (b : Body) : Bool := b.tail.length < 4096

/-- The kind byte of an unknown kind is none of the four of R197. -/
def unknownKindByte (k : Byte) : Bool := k != 0x01 && k != 0x02 && k != 0x03 && k != 0x04

/-- The direction bit of a control word's first byte names a write (R200). -/
def writeDirection (c : Byte) : Bool := !c.getLsbD 7

/-- The slot of an answer is supplied by the shelf link, 0 to 15 (R198). -/
def slotByte (b : Byte) : Bool := b.toNat < 16

/-- The checks on a command's operands. -/
def Instr.wellFormed : Instr → Bool
  | .reset => true
  | .read _ extra => extra.wellFormed
  | .write _ payload => payload.wellFormed
  | .flush _ extra => extra.wellFormed
  | .capacity _ extra => extra.wellFormed
  | .unknownKind kind _ extra => unknownKindByte kind && extra.wellFormed
  | .driveCompletion _ _ slot _ body => slotByte slot && body.wellFormed
  | .commandTimerExpiry _ _ => true
  | .starvationTimerRunOut _ => true
  | .writeFrame bytes => bytes.head?.all writeDirection
  | .readRequest _ _ => true
  | .replyFetch _ => true
  | .settingsWrite => true
  | .stagedDescriptorWrite => true
  | .create => true
  | .admitMembers => true
  | .start => true
  | .pause => true
  | .resume => true
  | .cancel => true
  | .ack => true
  | .clearCapture => true
  | .restart => true
  | .discardedWriteFrame => true
  | .lineAddressByte address => address != 0x59
  | .readRequestControlByte control => !writeDirection control

end Sys2Proof
end

