-- ==== Sys2Proof/Tests/Slice0.lean ====
section
/-! SUPPORT. Tests: ill-formed commands that the checks refuse, single steps of the spec's examples, and for every statement
with hypotheses a concrete case that meets them, clause by clause. -/

namespace Sys2Proof.Tests

set_option Elab.async false

open Sys2Proof Sys2Proof.Machine

/-! Ill-formed commands. -/

def header0 : Header := { tag := 0, count := 0, lba := 0, carried := 0, check := 0 }
def overfull : Body := { blocks := [], tail := List.replicate 4096 0 }

theorem test_read_tail_refused : (Instr.read header0 overfull).wellFormed = false := by decide +kernel
theorem test_write_tail_refused : (Instr.write header0 overfull).wellFormed = false := by decide +kernel
theorem test_flush_tail_refused : (Instr.flush header0 overfull).wellFormed = false := by decide +kernel
theorem test_capacity_tail_refused : (Instr.capacity header0 overfull).wellFormed = false := by decide +kernel
theorem test_unknown_kind_refused : (Instr.unknownKind 0x01 header0 Body.empty).wellFormed = false := by decide
theorem test_unknown_tail_refused : (Instr.unknownKind 0x05 header0 overfull).wellFormed = false := by decide +kernel
theorem test_slot_refused : (Instr.driveCompletion 0 0 16 0 Body.empty).wellFormed = false := by decide
theorem test_answer_tail_refused : (Instr.driveCompletion 0 0 0 0 overfull).wellFormed = false := by decide +kernel
theorem test_write_frame_refused : (Instr.writeFrame [0x80, 0, 0]).wellFormed = false := by decide
theorem test_address_byte_refused : (Instr.lineAddressByte 0x59).wellFormed = false := by decide
theorem test_control_byte_refused : (Instr.readRequestControlByte 0x01).wellFormed = false := by decide

/-! Small states. -/

/-- The member table with given entries. -/
def table (f : Nat → Member) : List Member := (List.range 96).map f

/-- A drive of 1028 blocks. -/
def drive : Member := Member.found 1028

def layout3 : Descriptor := { chunk := 1, rows := 4, members := [0, 1, 2] }
def layout4 : Descriptor := { chunk := 1, rows := 4, members := [0, 1, 2, 3] }

/-- The part after a discovery that found six drives on shelf 0 and no record. -/
def unformed : State :=
  { State.reset with bridge :=
    { Bridge.blocksReset with
      discovery := none, engine := { Engine.reset with volume := .unformed }
      members := table (fun m => if m < 6 then drive else Member.reset) } }

/-- A stable volume of four rows over drives 0 to 2. -/
def stable : State :=
  { unformed with bridge :=
    { unformed.bridge with
      engine := { Engine.reset with volume := .stable, current := some layout3, generation := 2 }
      parity := { ParityUnit.reset with healthCurrent := .ok }
      members := table (fun m =>
        if m < 3 then { drive with state := .online, currentColumn := some m }
        else if m < 6 then drive else Member.reset) } }

/-- The same volume expanding onto drive 3, with nothing moved. -/
def expanding : State :=
  { stable with bridge :=
    { stable.bridge with
      engine :=
        { stable.bridge.engine with
          volume := .expanding, state := .copy, target := some layout4
          durable := some { generation := 2, mark := 0, stage := none } }
      parity := { ParityUnit.reset with healthCurrent := .ok, healthTarget := .ok }
      members := table (fun m =>
        if m < 3 then { drive with state := .online, currentColumn := some m, targetColumn := some m }
        else if m < 4 then { drive with state := .online, targetColumn := some m }
        else if m < 6 then drive else Member.reset) } }

/-- A state with its bridge changed. -/
def onBridge (s : State) (f : Bridge → Bridge) : State := { s with bridge := f s.bridge }

/-- A state with its engine changed. -/
def onEngine (s : State) (f : Engine → Engine) : State := onBridge s (fun b => b.onEngine f)

/-- A state with one complete write frame waiting. -/
def withFrame (s : State) (bytes : List Byte) : State :=
  { s with mgmt := { s.mgmt with waiting := [{ bytes := bytes, overlong := false }] } }

/-- A state with a command of four data bytes waiting. -/
def withCommand (s : State) (code operand : Byte) : State := withFrame s [0x04, 0, 0, code, operand, 0, 0]

/-- A state with a staged descriptor. -/
def staging (s : State) (chunk : Byte) (members : List Byte) : State :=
  { s with mgmt := { s.mgmt with staged :=
    { columns := BitVec.ofNat 8 members.length, chunk := chunk
      members := members ++ List.replicate (24 - members.length) 0 } } }

/-- A state in which ADMIT executes with some probes outstanding. -/
def admitting (s : State) (probes : Nat) : State :=
  onBridge s (fun b => { b with command := { b.command with state := .executing probes } })

/-- The state after a command. -/
def after (i : Instr) (s : State) : State :=
  match exec i s with
  | .next t => t
  | .fault _ => s
  | .refused _ => s

/-- A header with its check byte right for a kind byte. -/
def header (kind tag : Byte) (count : BitVec 16) (lba : BitVec 48) : Header :=
  let h : Header := { tag := tag, count := count, lba := lba, carried := 0, check := 0 }
  { h with check := computedCheck kind h }

/-- A state with one drive command outstanding on port 0. -/
def outstanding (s : State) (c : DriveCommand) (attempt : Nat) : State :=
  onBridge s (fun b => b.onShelf 0 (fun p =>
    { p with table := [{ tag := 5, command := c, cls := c.issuer.cls, attempt := attempt, timer := 30 }] }))

def gatherRead (m : Nat) : DriveCommand :=
  { kind := .dread, member := m, block := 1024, count := 1, payload := [], issuer := .gather 0 }
def stageWrite (m : Nat) : DriveCommand :=
  { kind := .dwrite, member := m, block := 16, count := 1, payload := [0], issuer := .stageWrite }

def entryOf (c : DriveCommand) (attempt : Nat) : TagEntry :=
  { tag := 5, command := c, cls := c.issuer.cls, attempt := attempt, timer := 30 }

/-- A waiting READ of one block. -/
def request (tag : Nat) (kind : RequestKind) (arrival : BitVec 32) : Request :=
  { tag := tag, kind := kind, lba := 0, count := 1, arrival := arrival
    pieces := match kind with
      | .flush => []
      | .read => splitRequest 1 .read 0 1
      | .write => splitRequest 1 .write 0 1
    status := .good, buffer := [0] }

/-- A state with some requests in its table. -/
def withRequests (s : State) (requests : List Request) : State :=
  onBridge s (fun b => { b with port :=
    { b.port with table := requests, foreground := foregroundCount requests, arrivals := 100 } })

/-! Single steps. -/

theorem test_reset_sends_probes : (after .reset stable).bridge.sent.length = 96 := by decide +kernel
theorem test_capacity_of_stable :
    (after (.capacity (header 4 9 0 0) Body.empty) stable).bridge.sent
      = [.arrayFrame [9, 0, 8, 0, 0, 0, 0, 0, 2, 0, 0, 0, 0, 0, 0, 0, 3, 1, 2, 0] []] := by decide +kernel
theorem test_read_issues_one_dread :
    (after (.read (header 1 7 1 2) Body.empty) stable).bridge.sent
      = [.shelfFrame 0 [0x01, 0, 2, 0x01, 0x04, 0, 0, 0, 0, 1] []] := by decide +kernel
theorem test_write_reads_old_data_and_parity :
    (after (.write (header 2 7 1 2) { blocks := [1], tail := [] }) stable).bridge.sent
      = [.shelfFrame 0 [0x01, 0, 2, 0x01, 0x04, 0, 0, 0, 0, 1] [], .shelfFrame 0 [0x01, 1, 1, 0x01, 0x04, 0, 0, 0, 0, 1] []] := by
  decide +kernel
theorem test_read_past_capacity :
    (after (.read (header 1 7 1 8) Body.empty) stable).bridge.sent = [.arrayFrame [7, 2] []] := by decide +kernel
theorem test_flush_of_empty_table :
    (after (.flush (header 3 7 0 0) Body.empty) stable).bridge.sent = [.arrayFrame [7, 0] []] := by decide +kernel
theorem test_unknown_kind_invalid :
    (after (.unknownKind 9 (header 9 7 0 0) Body.empty) stable).bridge.sent = [.arrayFrame [7, 3] []] := by decide +kernel
theorem test_bad_check_captured :
    (after (.flush { header 3 7 0 0 with check := 0 } Body.empty) stable).bridge.port.check = .fenced := by decide +kernel
theorem test_answer_of_good_read_completes :
    (after (.driveCompletion 0 0 2 0 { blocks := [77], tail := [] })
      (after (.read (header 1 7 1 2) Body.empty) stable)).bridge.sent = [.arrayFrame [7, 0] [77]] := by decide +kernel
theorem test_expiry_reissues :
    (after (.commandTimerExpiry 0 3) State.reset).bridge.sent = [.shelfFrame 0 [3, 3, 3, 0, 0, 0, 0, 0, 0, 0] []] := by
  decide +kernel
theorem test_starvation_runs_out :
    ((after (.starvationTimerRunOut 0)
      (onBridge stable (fun b => b.onShelf 0 (fun p => { p with starvation := some 0 })))).bridge.shelf 0).starvation
        = some 100 := by decide +kernel
theorem test_address_byte_fills : (after (.lineAddressByte 0x58) stable).mgmt.line = .filling := by decide +kernel
theorem test_other_address_refused :
    (after (.lineAddressByte 0x40) stable).bridge.sent = [.lineAck false 1] := by decide +kernel
theorem test_write_frame_waits :
    (after (.writeFrame [0x04, 0, 0, 4, 0, 0, 0]) (after (.lineAddressByte 0x58) stable)).mgmt.waiting.length = 1 := by
  decide +kernel
theorem test_short_frame_counted :
    (after (.writeFrame [0x04, 0]) (after (.lineAddressByte 0x58) stable)).mgmt.frameErrors = 1 := by decide +kernel
theorem test_status_read :
    (after (.replyFetch 6) (after (.readRequest 0 0) (after (.readRequestControlByte 0x81)
      (after (.lineAddressByte 0x58) stable)))).bridge.sent
        = [.lineAck true 1, .lineBytes [3, 0, 0, 0, 0xFF, 0xFF]] := by decide +kernel
theorem test_settings_example :
    let s := after .settingsWrite (withFrame stable [0x00, 0, 5, 10, 30, 0, 0])
    (s.mgmt.settings.yieldEnter, s.mgmt.settings.yieldExit, s.mgmt.settings.weight, s.mgmt.settings.starveLimit)
      = (10, 9, 1, 1) := by decide +kernel
theorem test_frame_beyond_block_discarded :
    (after .discardedWriteFrame (withFrame stable [0x00, 0, 14, 1, 1, 1, 1])).mgmt.frameErrors = 1 := by decide +kernel
theorem test_staged_bytes :
    (after .stagedDescriptorWrite (withFrame stable [0x03, 0, 6, 7, 7, 9, 8])).mgmt.staged.members.take 3 = [9, 8, 0] := by
  decide +kernel
theorem test_create_takes_columns :
    let s := after .create (withCommand (staging unformed 1 [0, 1, 2]) 1 0)
    (s.bridge.engine.current, s.bridge.command.result, s.bridge.sent.length) = (some layout3, .ok, 6) := by decide +kernel
theorem test_start_takes_target :
    let s := after .start (withCommand (staging stable 1 [0, 1, 2, 3]) 3 0)
    (s.bridge.engine.target, s.bridge.command.result, s.bridge.engine.volume) = (some layout4, .ok, .expanding) := by
  decide +kernel
theorem test_duplicate_member_invalid :
    (after .start (withCommand (staging stable 1 [0, 1, 2, 2]) 3 0)).bridge.command.result = .invalidDesc := by decide +kernel
theorem test_admit_probes :
    (after .admitMembers (withFrame stable ([0x24, 0, 0, 2, 0xF8] ++ List.replicate 14 0))).bridge.command.state
      = .executing 5 := by decide +kernel
theorem test_pause_holds : (after .pause (withCommand expanding 4 0)).bridge.engine.state = .held := by decide +kernel
theorem test_resume_copies :
    (after .resume (withCommand (onEngine expanding (fun e => { e with state := .held, resume := some .copy })) 5 0)).bridge.engine.state
      = .copy := by decide +kernel
theorem test_cancel_in_progress : (after .cancel (withCommand expanding 6 0)).bridge.engine.cancel = true := by decide +kernel
theorem test_ack_clears :
    (after .ack (withCommand (onBridge stable (fun b => { b with causes := 0x1F })) 7 0x03)).bridge.causes = 0x1C := by
  decide +kernel
theorem test_clear_capture_opens :
    (after .clearCapture (withCommand (onBridge stable (fun b => { b with port := { b.port with check := .fenced } })) 8 0)).bridge.port.check
      = .clear := by decide +kernel
theorem test_restart_discovers : (after .restart (withCommand stable 9 0)).bridge.engine.volume = .discovering := by
  decide +kernel

/-- The stage record of 11.3: its check word. -/
def stageRecord : Record :=
  { generation := 9, volume := .expanding, current := { chunk := 8, rows := 0x040000, members := [0, 1, 2, 16, 17] }
    target := some { chunk := 8, rows := 0x040000, members := [0, 1, 2, 16, 17, 64, 65, 66] }, mark := 0
    stage := some (0, 5) }

theorem test_check_word_of_stage_record : wordAt stageRecord.block 1023 = 0x339649C6 := by decide +kernel
theorem test_words_of_stage_record :
    [0, 1, 3, 7, 8, 9, 10, 11, 16, 17, 18, 19].map (wordAt stageRecord.block)
      = [0x6A2460F1, 9, 0x304, 5, 0x805, 4, 0x10020100, 0x11, 0x808, 4, 0x10020100, 0x42414011] := by decide +kernel

/-! Cases that meet the hypotheses of the statements, clause by clause. -/

theorem test_case_StepTakesFrontCommand : State.reset.pending = [] := by decide +kernel

theorem test_case_ResetAndRestart :
    (withCommand stable 9 0).mgmt.waiting.head?.map WriteFrame.row = some .restart
      ∧ stable.bridge.command.state = .idle := by decide +kernel

theorem test_case_PlacementInverts :
    3 ≤ 3 ∧ 1 ≤ 1 ∧ 0 < 1
      ∧ placeOf .target { chunk := 8, rows := 262144, members := [0, 1, 2, 16, 17, 64, 65, 66] } 125 3 5
          = { layout := .target, row := 17, column := 0, offset := 3, count := 5 } := by decide

theorem test_case_SplitCoversRequest :
    1 ≤ 1 ∧ (splitRequest 4 .read 3 2).map (fun p => (p.index, p.lba, p.count)) = [(0, 3, 1), (1, 4, 1)] := by decide

theorem test_case_CurrentRowInTargetRows : 3 ≤ 3 ∧ 3 < 4 ∧ rowOf 3 2 = 1 := by decide

theorem test_case_CriticalRowsAndThresholds :
    3 ≤ 3 ∧ 3 < 4 ∧ 4 ≤ 24 ∧ criticalRow 3 4 1 = true ∧ criticalRow 3 4 2 = false ∧ 2 < 4
      ∧ guardThreshold 5 8 644 = 369 ∧ expanding.bridge.engine.current = some layout3
      ∧ expanding.bridge.engine.target = some layout4 ∧ stable.bridge.engine.target = none
      ∧ [1, 2].map (fun mark => ({ expanding.bridge.engine with checkMark := mark } : Engine).guardMet 2)
          = [false, true] := by decide +kernel

theorem test_case_ParityRelations :
    ([1] : List Block).length = 1 ∧ (∀ r ∈ [[2], ([3] : List Block)], r.length = 1)
      ∧ [[2], ([3] : List Block)][1]? = some [3]
      ∧ xorBlocks [1] (xorAll 1 [[2], [4]]) = [7] := by decide +kernel

theorem test_case_CheckBytesRight : wordAt 0 1023 = 0 := by decide +kernel

/-- A record of a volume state that a record may declare. -/
def recordOf (volume : VolumeState) : Record :=
  { generation := 1, volume := volume, current := layout3
    target := if volume = .expanding then some layout4 else none, mark := 0
    stage := if volume = .expanding then some (0, 3) else none }

theorem test_case_RecordRoundTrip :
    ∀ v ∈ [VolumeState.initializing, .stable, .expanding], (recordOf v).valid = true ∧ (recordOf v).generation ≠ 0 := by
  decide +kernel

theorem test_case_DiscardedFrameCaptured :
    arrayFrame? (.flush header0 Body.empty) = some (0x03, header0)
      ∧ stable.mgmt.settings.checkEnable = true ∧ crc8 ((headerBytes 0x03 header0).take 15) ≠ header0.check
      ∧ crc8 ((headerBytes 0x03 (header 3 127 0 0)).take 15) = (header 3 127 0 0).check
      ∧ stable.bridge.engine.volume ≠ .discovering ∧ (header 3 127 0 0).tag.toNat < 128
      ∧ ∃ r ∈ (withRequests stable [request 127 .read 1]).bridge.port.table, r.tag = (header 3 127 0 0).tag.toNat := by
  decide +kernel

theorem test_case_FrameAnsweredBusyOrInvalid :
    checkFails State.reset.mgmt.settings 0x04 (header 4 255 0 0) = false
      ∧ State.reset.bridge.engine.volume = .discovering
      ∧ checkFails stable.mgmt.settings 0x04 (header 4 128 0 0) = false
      ∧ stable.bridge.engine.volume ≠ .discovering ∧ 128 ≤ (header 4 128 0 0).tag.toNat
      ∧ stable.pastEarlyTests 0x05 (header 5 127 0 0) = true := by decide +kernel

theorem test_case_CapacityReplied : stable.pastEarlyTests 0x04 (header 4 0 0 0) = true := by decide +kernel

/-- The port fenced. -/
def fenced (s : State) : State := onBridge s (fun b => { b with port := { b.port with check := .fenced } })

/-- A table that leaves no piece free. -/
def poolTaken (s : State) : State :=
  withRequests s [{ request 1 .read 1 with pieces := List.replicate 512 (pieceOf 1 .read 0 1 0) }]

theorem test_case_BlockRequestRefused :
    ((fenced stable).pastEarlyTests 0x02 (header 2 0 1 0) = true ∧ (fenced stable).bridge.port.check = .fenced)
      ∧ (stable.pastEarlyTests 0x01 (header 1 0 0 0) = true ∧ (header 1 0 0 0).count.toNat = 0)
      ∧ (stable.pastEarlyTests 0x01 (header 1 0 257 0) = true ∧ 256 < (header 1 0 257 0).count.toNat)
      ∧ (stable.pastEarlyTests 0x02 (header 2 0 1 0) = true ∧ payloadFits (header 2 0 1 0) Body.empty = false)
      ∧ (stable.pastEarlyTests 0x01 (header 1 0 1 8) = true
          ∧ stable.bridge.engine.visibleCapacity < (header 1 0 1 8).lba.toNat + (header 1 0 1 8).count.toNat)
      ∧ ((poolTaken stable).pastEarlyTests 0x01 (header 1 0 1 7) = true
          ∧ (header 1 0 1 7).lba.toNat + (header 1 0 1 7).count.toNat ≤ stable.bridge.engine.visibleCapacity
          ∧ (poolTaken stable).bridge.port.freePieces < pieceCount 1 7 1) := by decide +kernel

theorem test_case_BlockRequestAccepted :
    stable.pastEarlyTests 0x01 (header 1 127 8 0) = true ∧ stable.pastEarlyTests 0x02 (header 2 0 1 7) = true
      ∧ stable.bridge.port.check = .clear ∧ (header 1 127 8 0).lba.toNat + 8 ≤ stable.bridge.engine.visibleCapacity
      ∧ pieceCount 1 0 8 ≤ stable.bridge.port.freePieces ∧ ([0] : List Block).length = (header 2 0 1 7).count.toNat := by
  decide +kernel

/-- A READ of two blocks, each a piece. -/
def request2 : Request := { request 2 .read 3 with count := 2, pieces := splitRequest 1 .read 0 2, buffer := [0, 0] }

theorem test_case_RequestsCompleteOrWait :
    stable.pastEarlyTests 0x03 (header 3 2 0 0) = true ∧ stable.bridge.port.table = []
      ∧ (let s := withRequests stable [request 0 .read 98, request 1 .flush 99];
        s.pastEarlyTests 0x03 (header 3 2 0 0) = true
          ∧ (∃ r ∈ s.bridge.port.table, arrivalEarlier r.arrival s.bridge.port.arrivals = true)
          ∧ (∀ w ∈ s.bridge.port.table, w.kind = .flush →
              ∃ r ∈ s.bridge.port.table, r.tag ≠ w.tag ∧ arrivalEarlier r.arrival w.arrival = true)
          ∧ (s.bridge.finishPiece Settings.reset 0 0 .good [7]).sent = [.arrayFrame [0, 0] [7], .arrayFrame [1, 0] []])
      ∧ (let b := (withRequests stable [request2]).bridge;
        b.port.request? 2 = some request2 ∧ (b.piece? 2 1).map (fun p => p.lba - request2.lba + 1) = some 2
          ∧ ((b.finishPiece Settings.reset 2 1 .good [7]).port.request? 2).map Request.buffer = some [0, 7])
      ∧ (let requests := [request 0 .read 1, request 1 .flush 2, request 2 .flush 3, request 3 .read 4, request 4 .flush 5];
        let b := (withRequests stable requests).bridge;
        (b.port.table.map Request.tag).Nodup
          ∧ b.port.table.Pairwise (fun x y => arrivalEarlier x.arrival y.arrival = true)
          ∧ (b.finishPiece Settings.reset 0 0 .good [7]).port.table.map Request.tag = [3, 4]
          ∧ (b.finishPiece Settings.reset 3 0 .good [7]).port.table.map Request.tag = [0, 1, 2, 4]) := by
  decide +kernel

/-- A held gather read of an arrival number. -/
def heldGather (arrival : BitVec 32) (chunk : Nat) : Gather :=
  { arrival := arrival, chunk := chunk, slot := .a, position := 0, released := false }

theorem test_case_ArrivalOrderAndDispatch :
    1 ≤ 2 ^ 31 - 1 ∧ 2 ^ 31 - 1 < 2 ^ 31
      ∧ (let b := (withRequests expanding [request 0 .read 5, request 1 .write 6]).bridge;
        (request 0 .read 5).pieces.map (b.pieceFree 5) = [true]
          ∧ (request 1 .write 6).pieces.map (b.pieceFree 6) = [false] ∧ b.dispatchNext.isSome = true
          ∧ [4, 7].map (fun a => (b.gatherFree (heldGather a 0), arrivalEarlier a 5)) = [(true, true), (false, false)]
          ∧ b.gatherFree (heldGather 7 1) = true) := by decide +kernel

/-- A service of the chunk on column 2 of row 0 of the current layout. -/
def serviceOf (write unreadable : Bool) (kept : Kept) : Service :=
  { work := .piece 0 0, write := write, place := { layout := .current, row := 0, column := 2, offset := 0, count := 1 }
    step := .lockWait, outstanding := 0, results := [], unreadable := unreadable, kept := kept, withdrawn := false }

theorem test_case_ArrivalOrderAndDispatch_course :
    let asked := (withRequests stable [request 0 .read 5]).bridge
    let waiting := { asked with migrationWait := [[gatherRead 0]] }
    ({ asked with work := [.failEngine] }.tick Settings.reset).isSome = true
      ∧ [waiting, asked, expanding.bridge, stable.bridge].map (fun b =>
          (b.work.isEmpty, (b.pump Settings.reset).isSome, b.dispatchNext.isSome, b.engineAdvance.isSome))
        = [(true, true, true, false), (true, false, true, false), (true, false, false, true), (true, false, false, false)]
      ∧ (stable.bridge.tick Settings.reset).isNone = true
      ∧ (let b := stable.bridge.onParity (fun p => { p with services := [serviceOf true false .nothing] });
        b.service? (.piece 0 0) = some (serviceOf true false .nothing)
          ∧ (serviceOf true false .nothing).withdrawn = false) := by decide +kernel

theorem test_case_PacingAndGrantTables :
    (withRequests stable [request 0 .read 1, request 1 .flush 2]).bridge.port.foreground = 1
      ∧ Settings.reset.inRange = true
      ∧ ({ Settings.reset with yieldEnter := 1, yieldExit := 0 } : Settings).inRange = true
      ∧ [(3, none), (4, none), (0, some 99), (0, some 100)].map (fun (g, t) =>
          let p : ShelfPort :=
            { table := [], foreground := [gatherRead 0], migration := [gatherRead 0], grants := g, starvation := t };
          (grantClass Settings.reset .normal p, grantClass Settings.reset .yield p))
        = [(some .foreground, some .foreground), (some .migration, some .foreground)
          , (some .foreground, some .foreground), (some .foreground, some .migration)] := by decide +kernel

theorem test_case_GrantTakesLowestFreeTag :
    (let b := stable.bridge.onShelf 5 (fun p => { p with foreground := [gatherRead 80] });
      5 < b.shelves.length ∧ (b.grantAt Settings.reset 5).isSome = true)
      ∧ (let b := stable.bridge.onShelf 0 (fun p => { p with migration := [gatherRead 0], starvation := some 0 });
        (b.grantAt Settings.reset 0).isSome = true)
      ∧ (stable.bridge.grantAt Settings.reset 0).isSome = false
      ∧ (let full := (List.range 64).map (fun t => { entryOf (gatherRead 0) 1 with tag := t });
        let b := stable.bridge.onShelf 0 (fun p => { p with foreground := [gatherRead 0], table := full });
        (b.grantAt Settings.reset 0).isSome = false) := by decide +kernel

theorem test_case_AnswerDiscarded :
    stable.bridge.tagEntry? 0 255 = none
      ∧ State.reset.bridge.tagEntry? 0 15 = some { tag := 15, command := discoveryProbe 15, cls := .migration, attempt := 1, timer := 30 }
      ∧ 14 ≠ (discoveryProbe 15).member % 16
      ∧ (let s := outstanding (onBridge stable (fun b => b.onMember 1 (fun m => { m with state := .failed }))) (gatherRead 1) 1;
        s.bridge.tagEntry? 0 5 = some (entryOf (gatherRead 1) 1) ∧ (s.bridge.member 1).state = .failed)
      ∧ (let s := outstanding (onBridge stable (fun b => b.onMember 1 (fun m => { m with state := .stale }))) (gatherRead 1) 1;
        s.bridge.tagEntry? 0 5 = some (entryOf (gatherRead 1) 1) ∧ (s.bridge.member 1).state = .stale) := by decide +kernel

theorem test_case_AnswerDelivered :
    (outstanding stable (gatherRead 2) 1).bridge.tagEntry? 0 5 = some (entryOf (gatherRead 2) 1)
      ∧ (outstanding stable (stageWrite 2) 1).bridge.tagEntry? 0 5 = some (entryOf (stageWrite 2) 1)
      ∧ stable.bridge.memberFailed 2 = false ∧ (∀ odd, (gatherRead 2).issuer ≠ .recordRead odd)
      ∧ (gatherRead 2).kind = .dread ∧ (stageWrite 2).kind = .dwrite ∧ ([7] : List Block).length = (gatherRead 2).count
      ∧ 2 < stable.bridge.members.length
      ∧ min ((stable.bridge.member 2).media + 1) 255 < stable.mgmt.settings.mediaLimit
      ∧ [((1 : Byte), Body.empty), (3, Body.empty), (0xFF, Body.empty), (0, { blocks := [7, 8], tail := [] })
          , (0, { blocks := [7], tail := [1] })].map (fun a => answerOf (gatherRead 2) a.1 a.2)
        = List.replicate 5 .media := by decide +kernel

theorem test_case_AnswerDelivered_issuers :
    let served : Nat → Bridge := fun n =>
      stable.bridge.onParity (fun p => { p with services := [{ serviceOf true false .nothing with outstanding := n }] })
    let sent : Issuer → DriveCommand := fun x => { gatherRead 0 with issuer := x }
    [sent (.plainRead 0 0), gatherRead 0].map (fun c => (stable.bridge.deliver c .media).work)
        = [[.handOver (.piece 0 0) false], [.handOver (.chunk 0) false]]
      ∧ [2, 1].map (fun n => ((served n).deliver (sent (.service (.piece 0 0) .own)) .media).work)
          = [[], [.judgeStep (.piece 0 0)]]
      ∧ (stable.bridge.service? (.piece 0 0)).isNone = true
      ∧ (stageWrite 0).issuer = .stageWrite := by decide +kernel

theorem test_case_AnswerFailsMember :
    (outstanding stable (stageWrite 2) 1).bridge.tagEntry? 0 5 = some (entryOf (stageWrite 2) 1)
      ∧ stable.bridge.memberOnline 2 = true ∧ (stageWrite 2).kind ≠ .dprobe
      ∧ (∀ odd, (stageWrite 2).issuer ≠ .recordRead odd)
      ∧ (let s := onBridge stable (fun b => b.onMember 2 (fun m => { m with media := 15 }));
        s.mgmt.settings.mediaLimit ≤ min ((s.bridge.member 2).media + 1) 255 ∧ s.bridge.memberOnline 2 = true
          ∧ (gatherRead 2).kind = .dread ∧ Body.empty.blocks.length ≠ (gatherRead 2).count)
      ∧ ((after (.driveCompletion 0 5 2 3 Body.empty) (outstanding stable (stageWrite 2) 1)).bridge.member 2).state
          = .failed := by
  decide +kernel

/-- The expanding volume with the write-out of row 0 down to its last writes, one target member failed before. -/
def writingOut (writes : Nat) : State :=
  onEngine (onBridge expanding (fun b => b.onMember 1 (fun m => { m with state := .failed }))) (fun e =>
    { e with slotA := { Slot.reset with state := .writing, row := some 0, parity := some [0], writes := writes } })

/-- A write of the write-out of slot A. -/
def rowWrite (m : Nat) : DriveCommand :=
  { kind := .dwrite, member := m, block := 1024, count := 1, payload := [0], issuer := .writeOut .a }

/-- A service of a piece whose step has two reads outstanding. -/
def twoReads : Service :=
  { work := .piece 0 0, write := true, place := { layout := .current, row := 0, column := 2, offset := 0, count := 1 }
    step := .rmwReadOld, outstanding := 2, results := [], unreadable := false, kept := .nothing, withdrawn := false }

theorem test_case_MemberDeclaredFailed :
    2 < stable.bridge.members.length ∧ 2 / 16 < stable.bridge.shelves.length
      ∧ [stable.bridge.declareFailed 2, expanding.bridge.declareFailed 2, (writingOut 1).bridge.declareFailed 2].map
          (fun b => (b.engine.state, b.engine.hold, b.causes))
        = [(.idle, none, 0x02), (.copy, some .member, 0x02), (.failed, none, 0x12)]
      ∧ (({ stable.bridge with migrationWait := [[stageWrite 1, stageWrite 2]] }.declareFailed 2).migrationWait
          = [[stageWrite 1]])
      ∧ (let b := stable.bridge.onShelf 0 (fun p => { p with migration := [gatherRead 2], starvation := some 7 });
        (((b.markFailed 2).withoutMember 2).shelf 0).starvation = none
          ∧ (((b.markFailed 1).withoutMember 1).shelf 0).starvation = some 7)
      ∧ (let b := stable.bridge.onParity (fun p => { p with services := [twoReads] });
        (b.service? (.piece 0 0)).isSome = true ∧ (b.stepCommandEnded (.piece 0 0) .own .failed).work = []
          ∧ ((b.stepCommandEnded (.piece 0 0) .own .failed).stepCommandEnded (.piece 0 0) .parity .failed).work
              = [.judgeStep (.piece 0 0)]) := by decide +kernel

/-- The failure that breaks the target layout with the last write of a write-out completes the row, and then makes the
engine FAILED (R82, R93, R146). -/
theorem test_second_failure_fails_write_out :
    let s := after (.driveCompletion 0 5 2 2 Body.empty) (outstanding (writingOut 1) (rowWrite 2) 1)
    (s.bridge.engine.state, s.bridge.engine.doneMark, (s.bridge.member 2).state) = (.failed, 1, .failed) := by
  decide +kernel

/-- The expanding volume with a checkpoint of a kind in flight, its last write, and a DREAD of a TARGET read piece,
outstanding on member 2. -/
def lastWrite (kind : CheckpointKind) (stage : Option (Nat × Nat)) (f : Engine → Engine) : State :=
  let place : Place := { layout := .target, row := 0, column := 2, offset := 0, count := 1 }
  let piece := fun (q : Piece) => { q with state := .issued, cls := some .target, place := some place }
  let write : DriveCommand := checkpointWrite 2 8 0
  let read : DriveCommand := { gatherRead 2 with issuer := .plainRead 0 0 }
  onBridge (withRequests expanding [{ request 0 .read 1 with pieces := (request 0 .read 1).pieces.map piece }]) (fun b =>
    (b.onEngine (fun e => f { e with
        checkpoint := some
          { kind := kind, generation := 3, mark := e.doneMark, stage := stage, threshold := 3
            parts := [0, 1, 2, 3].map (fun m => { member := m, outstanding := if m = 2 then 1 else 0, good := true }) } })).onShelf
      0 (fun p => { p with table :=
        [{ tag := 3, command := read, cls := .foreground, attempt := 1, timer := 30 }
        , { tag := 5, command := write, cls := .migration, attempt := 1, timer := 30 }] }))

/-- A failure that ends the DREAD of a TARGET read and then the last write of the final checkpoint has the read served by
reconstruction in the new current layout (R50, R51, R87, R119). -/
theorem test_read_reconstructed_after_final :
    let s := after (.driveCompletion 0 5 2 2 Body.empty)
      (lastWrite .final none (fun e => { e with state := .fill, doneMark := 4 }))
    s.bridge.engine.volume = .stable ∧ s.bridge.parity.locks.map (fun e => (e.layout, e.row)) = [(.current, 0)]
      ∧ s.bridge.parity.services.map (fun x => (x.place.layout, x.step, x.outstanding))
        = [(.current, .reconstructReadPeers, 3)] := by decide +kernel

/-- A second failure that ends the last write of a stage checkpoint, which succeeds, has no write-out issued (R81, R110,
R146). -/
theorem test_second_failure_ends_stage_checkpoint :
    let s := onBridge
      (lastWrite .stage (some (0, 3)) (fun e =>
        { e with
          staging := some { column := 3, outstanding := 0, failed := false }
          slotA := { e.fillSlot 0 with state := .staging } }))
      (fun b => b.onMember 1 (fun m => { m with state := .failed }))
    let t := after (.driveCompletion 0 5 2 2 Body.empty) s
    (t.bridge.engine.state, t.bridge.engine.durable.map Durable.stage, t.bridge.engine.slotA.writes, t.bridge.sent.length)
      = (.failed, some (some (0, 3)), 0, 1) := by decide +kernel

/-- A step of the engine that waits is not sent after the engine has entered FAILED (R94). -/
theorem test_waiting_engine_step_dropped :
    ({ expanding.bridge with migrationWait := [[stageWrite 3], [admitProbe 5]] }.failEngine).migrationWait
      = [[admitProbe 5]] := by decide +kernel

/-- A discovery in which member 5 has answered and its records are being read. -/
def readingRecords : Discovery :=
  Discovery.reset.onMember 5 (fun _ => { probe := .answered 2048, block0 := .pending, block8 := .pending })

/-- The part with that discovery running. -/
def discovering : State := onBridge State.reset (fun b => { b with discovery := some readingRecords })

def recordRead (odd : Bool) : DriveCommand :=
  { kind := .dread, member := 5, block := if odd then 8 else 0, count := 1, payload := [], issuer := .recordRead odd }

/-- A discovery of which the probe of member 5 alone is open. -/
def lastProbe : Discovery :=
  { Discovery.reset with
    members := (List.range 96).map (fun m =>
      if m = 5 then DiscoveryMember.reset else { probe := .absent, block0 := .ended, block8 := .ended }) }

/-- The part with the last attempt of that probe outstanding. -/
def probingLast : State :=
  outstanding (onBridge State.reset (fun b => { b with discovery := some lastProbe })) (discoveryProbe 5) 3

/-- The choice event follows in the event of the last probe, with no answer and with a drive too small for records (R164,
R167). -/
theorem test_last_probe_chooses :
    (∀ i ∈ [.commandTimerExpiry 0 5, .driveCompletion 0 5 5 0 { blocks := [], tail := leBytes 6 1000 }],
      let b := (after i probingLast).bridge
      b.engine.volume = .unformed ∧ b.discovery = none)
      ∧ (after (.driveCompletion 0 5 5 0 { blocks := [], tail := leBytes 6 1024 }) probingLast).bridge.engine.volume
          = .discovering := by decide +kernel

theorem test_case_TimerExpiry :
    (outstanding stable (gatherRead 2) 2).bridge.tagEntry? 0 5 = some (entryOf (gatherRead 2) 2)
      ∧ (entryOf (gatherRead 2) 2).attempt ≤ stable.mgmt.settings.retryLimit
      ∧ (outstanding stable (gatherRead 2) 3).bridge.tagEntry? 0 5 = some (entryOf (gatherRead 2) 3)
      ∧ stable.mgmt.settings.retryLimit < (entryOf (gatherRead 2) 3).attempt ∧ stable.bridge.memberOnline 2 = true
      ∧ (∀ n ∈ [1, 2], let s := admitting (outstanding stable (admitProbe 5) 3) n;
        s.bridge.tagEntry? 0 5 = some (entryOf (admitProbe 5) 3) ∧ s.bridge.shaped ∧ s.bridge.command.state = .executing n)
      ∧ (∀ c ∈ [discoveryProbe 5, recordRead true], let s := outstanding discovering c 3;
        s.bridge.tagEntry? 0 5 = some (entryOf c 3) ∧ s.bridge.shaped ∧ s.bridge.discovery = some readingRecords)
      ∧ readingRecords.members.length = 96 ∧ readingRecords.answered 5 = true := by
  unfold Bridge.shaped
  decide +kernel

theorem test_case_StarvationTimerRunsOut :
    let s := onBridge stable (fun b => b.onShelf 5 (fun p =>
      { p with foreground := [gatherRead 80], migration := [gatherRead 80], starvation := some 0 }))
    s.bridge.shaped ∧ (s.bridge.shelf 5).foreground ≠ [] ∧ (s.bridge.shelf 5).migration ≠ []
      ∧ (s.bridge.shelf 5).starvation ≠ none := by
  unfold Bridge.shaped
  decide +kernel

/-- The stable volume with some of its members failed. -/
def failing (members : List Nat) : Bridge :=
  { stable.bridge with members := table (fun m =>
      if m < 3 then { drive with state := if members.contains m then .failed else .online, currentColumn := some m }
      else Member.reset) }.refreshHealth

theorem test_case_StepsQueuedWithinRoom :
    stable.bridge.shaped ∧ stable.bridge.queuesFit
      ∧ (∀ c ∈ [gatherRead 0, gatherRead 1],
          c.issuer.cls = .migration ∧ c.member < 96 ∧ stable.bridge.memberFailed c.member = false)
      ∧ stable.bridge.waitList .migration = []
      ∧ stable.bridge.fits .migration [gatherRead 0, gatherRead 1] = true
      ∧ (let b := { stable.bridge with migrationWait := [[gatherRead 0]] };
        b.shaped ∧ b.queuesFit ∧ b.waitList .migration ≠ [] ∧ (b.admitWaiting .migration).isSome = true)
      ∧ (let b := { failing [1] with migrationWait := [[gatherRead 0]] };
        (b.issueStep .migration [gatherRead 0, gatherRead 1]).work = [.deliver (gatherRead 1) .failed]
          ∧ (b.issueStep .migration [gatherRead 0, gatherRead 1]).migrationWait = [[gatherRead 0], [gatherRead 0]])
      ∧ (let b := (stable.bridge.onShelf 0 (fun p => { p with migration := List.replicate 256 (gatherRead 0) })).setWaitList
          .migration [[gatherRead 0]];
        b.shaped ∧ b.queuesFit ∧ b.admitWaiting .migration = none ∧ b.admitWaiting .foreground = none) := by
  unfold Bridge.shaped Bridge.queuesFit
  decide +kernel

theorem test_case_StepsQueuedWithinRoom_grants :
    (let b := stable.bridge.issueStep .migration [gatherRead 0, gatherRead 16];
      [0, 1, 2].map (fun q => (b.shelf q).starvation) = [some 0, some 0, none]
        ∧ b.admitWaiting .foreground = none ∧ b.admitWaiting .migration = none
        ∧ (b.grantAt Settings.reset 0).isSome = true)
      ∧ (let b := stable.bridge.issueStep .migration [gatherRead 16];
        b.grantAt Settings.reset 0 = none ∧ (b.grantAt Settings.reset 1).isSome = true)
      ∧ (stable.bridge.pump Settings.reset).isNone = true
      ∧ ({ stable.bridge with foregroundWait := [[gatherRead 0]] }.admitWaiting .foreground).isSome = true := by
  decide +kernel

/-- An engine with slot A in a state on a row. -/
def slotOn (s : State) (state : SlotState) (row : Nat) : Engine :=
  { s.bridge.engine with slotA := { Slot.reset with state := state, row := some row } }

theorem test_case_RoutingTable :
    (∀ state ∈ [SlotState.gather, .full, .staging, .writing],
      (slotOn expanding state 0).doneMark ≤ 0 ∧ ((slotOn expanding state 0).slot .a).row = some 0
        ∧ ((slotOn expanding state 0).slot .b).state = .free)
      ∧ 0 < ({ expanding.bridge.engine with doneMark := 1 } : Engine).doneMark
      ∧ (expanding.bridge.engine.slot .a).state = .free ∧ (expanding.bridge.engine.slot .b).state = .free
      ∧ (let b := (withRequests stable [request 0 .read 1]).bridge;
        b.shaped ∧ (b.piece? 0 0).isSome = true ∧ b.engine.current = some layout3 ∧ b.engine.volume ≠ .expanding
          ∧ b.memberOnline 1 = true ∧ b.memberOnline 5 = false)
      ∧ (let b := (withRequests expanding [request 0 .write 1]).bridge;
        (b.piece? 0 0).map Piece.chunk = some 0 ∧ b.engine.target = some layout4 ∧ b.engine.stageLoss ≠ some 0
          ∧ b.engine.classify .write 0 = .current
          ∧ ({ b.engine with doneMark := 1 } : Engine).classify .write 0 = .target
          ∧ ({ b.engine with stageLoss := some 0 } : Engine).stageLoss = some 0)
      ∧ [SlotState.gather, .full, .staging, .writing].map (fun state => let e := slotOn expanding state 0;
          (e.slotHolding 0, e.classify .read 0, e.classify .write 0))
        = [(some .a, .current, .through), (some .a, .slotRead, .through), (some .a, .slotRead, .park)
          , (some .a, .slotRead, .park)] := by
  unfold Bridge.shaped
  decide +kernel

/-- Requests with parked pieces. -/
def parkedState : State :=
  onBridge (withRequests expanding [request 0 .write 1, request 1 .write 2]) (fun b =>
    { b with router := { b.router with
      hold := [{ tag := 0, index := 0, row := 0 }], parkWait := [{ tag := 1, index := 0, row := 0 }] } })

theorem test_case_ParkedAndSlotPiecesServed :
    expanding.bridge.engine.state ≠ .failed ∧ parkedState.bridge.router.hold.length < 32
      ∧ 32 ≤ (List.replicate 32 ({ tag := 0, index := 0, row := 0 } : RowPiece)).length
      ∧ parkedState.bridge.engine.target = some layout4
      ∧ (∀ e ∈ parkedState.bridge.router.hold ++ parkedState.bridge.router.parkWait,
          (parkedState.bridge.piece? e.tag e.index).isSome = true)
      ∧ (parkedState.bridge.pieceData 0 0).length = 1
      ∧ [expanding, onEngine expanding (fun e => { e with state := .failed })].map (fun s =>
          let b := (withRequests s [request 0 .write 1]).bridge.servePark 0 (pieceOf 1 .write 0 1 0) 0
          ((b.piece? 0 0).map Piece.state, b.work)) = [(some .parked, []), (some .waiting, [.finishPiece 0 0 .lost []])]
      ∧ (parkedState.bridge.releaseParked.work, parkedState.bridge.releaseParked.workPlace (.piece 1 0))
          = ([.handOver (.piece 0 0) true, .handOver (.piece 1 0) true]
            , some { layout := .target, row := 0, column := 1, offset := 0, count := 1 })
      ∧ ((expanding.bridge.engine.copySlot 0).data.getD 2 []).length = 1
      ∧ 2 < (expanding.bridge.engine.copySlot 0).data.length := by decide +kernel

/-- How the two reads of READ_OLD may have ended. -/
def oldRead (data parity : Ending) : Service :=
  { serviceOf true false .nothing with step := .rmwReadOld, results := [(.own, data), (.parity, parity)] }

theorem test_case_ParityRelations_results :
    (let b := (withRequests stable [{ request 0 .write 1 with buffer := [9] }]).bridge;
      (b.port.request? 0).isSome = true ∧ (b.piece? 0 0).isSome = true
        ∧ b.newParity (serviceOf true false (.old [1] [4])) = [9 ^^^ 1 ^^^ 4]
        ∧ b.newParity (serviceOf true false (.peers [2])) = [9 ^^^ 2])
      ∧ ((oldRead (.good [1]) (.good [4])).ended .own = some (.good [1])
          ∧ (oldRead (.good [1]) (.good [4])).ended .parity = some (.good [4]))
      ∧ (oldRead .media (.good [4])).afterReadOld.unreadable = true
      ∧ (oldRead (.good [1]) .failed).afterReadOld.kept = .nothing
      ∧ (oldRead (.good [1]) (.good [4])).results.map Prod.snd = [[1], [4]].map Ending.good
      ∧ (oldRead (.good [1]) (.good [4])).afterReadPeers.kept = .peers [1 ^^^ 4]
      ∧ (oldRead (.good [1]) .media).afterReadPeers.kept = .nothing := by decide +kernel

theorem test_case_FormsAndSteps :
    (failing [0, 2]).health .current = .broken
      ∧ ((failing [0]).health .current ≠ .broken ∧ (failing [0]).memberFailed ((failing [0]).columnMember .current 0) = true)
      ∧ ((failing [2]).health .current ≠ .broken ∧ (failing [2]).memberFailed ((failing [2]).columnMember .current 0) = false
          ∧ (failing [2]).memberFailed ((failing [2]).columnMember .current 2) = true)
      ∧ (failing []).health .current ≠ .broken
      ∧ (∀ c < 3, c ≠ 2 → (failing []).memberOnline ((failing []).columnMember .current c) = true)
      ∧ (failing [1]).health .current ≠ .broken
      ∧ (failing [1]).memberFailed ((failing [1]).columnMember .current 2) = false
      ∧ (failing [1]).memberOnline ((failing [1]).columnMember .current 1) = false := by decide +kernel

theorem test_case_WriteOutcomeAndHealth :
    [layoutHealth (failing []).members (some layout3), layoutHealth (failing [1]).members (some layout3)
      , layoutHealth (failing [0, 1]).members (some layout3)] = [.ok, .degraded, .broken] := by decide +kernel

/-- The expanding volume with row 0 gathering in slot A. -/
def gathering : Bridge := expanding.bridge.allocateRow .a 0

/-- A service with a step and results. -/
def stepOver (step : ServiceStep) (results : List (StepRole × Ending)) : Service :=
  { serviceOf true false .nothing with step := step, results := results }

theorem test_case_FormsAndSteps_steps :
    (failing []).decide (serviceOf true false .nothing) = some .rmwReadOld
      ∧ (failing [0, 2]).decide (serviceOf true false .nothing) = none
      ∧ ((failing []).judgeStep (stepOver .rmwWriteNew [(.own, .good []), (.parity, .failed)])).work
          = [.finishPiece 0 0 .good []]
      ∧ [(StepRole.peer 0, Ending.good [1]), (.peer 1, .good [4])].map Prod.snd = [[1], [4]].map Ending.good
      ∧ ((failing []).judgeStep (stepOver .reconstructReadPeers [(.peer 0, .good [1]), (.peer 1, .good [4])])).work
          = [.finishPiece 0 0 .good [5]]
      ∧ (stepOver .rereadReadOwn [(.own, .good [7])]).ended .own = some (.good [7])
      ∧ (stepOver .rereadReadOwn [(.own, .media)]).ended .own = some .media
      ∧ ({ serviceOf false false .nothing with work := .chunk 0, withdrawn := true } : Service).withdrawn = true := by
  decide +kernel

/-- The stable volume with some row lock entries of the current layout, and work in the allocation wait list. -/
def locking (locks : List LockEntry) (waiting : List Work) : Bridge :=
  stable.bridge.onParity (fun p =>
    { p with locks := locks, allocation := waiting, services := [serviceOf true false .nothing] })

/-- A row lock entry of the current layout. -/
def lockOf (row : Nat) (waiters : List Work) : LockEntry :=
  { layout := .current, row := row, holder := .piece 9 row, waiters := waiters }

theorem test_case_RowLocksTakenAndReleased :
    ((locking [lockOf 0 []] []).parity.locksSound ∧ (locking [lockOf 0 [.piece 8 0]] []).parity.locksSound)
      ∧ (locking [lockOf 0 []] []).decide (serviceOf true false .nothing) = some .rmwReadOld
      ∧ ((failing [0]).decide (serviceOf true false .nothing) = some .writeData
          ∧ (failing [0, 2]).decide (serviceOf true false .nothing) = none)
      ∧ (locking [lockOf 1 []] []).parity.locks.length < 64
      ∧ 64 ≤ ((List.range 64).map (fun r => lockOf (r + 1) [])).length
      ∧ ((locking [lockOf 0 []] []).requestLock (serviceOf true false .nothing)).parity.locks = [lockOf 0 [.piece 0 0]]
      ∧ (((locking [lockOf 0 [.piece 8 0]] []).releaseLock (.piece 9 0)).work = [.beginService (.piece 8 0)])
      ∧ (let b := (locking [lockOf 0 [], lockOf 1 []] [.piece 0 0]).releaseLock (.piece 9 1);
        b.parity.locks = [lockOf 0 [.piece 0 0]] ∧ b.parity.allocation = [])
      ∧ (let b := (locking [lockOf 1 []] [.piece 0 0]).releaseLock (.piece 9 1);
        b.parity.locks.map LockEntry.holder = [.piece 0 0] ∧ b.work = [.beginService (.piece 0 0)])
      ∧ ((gathering.gather? 2).isSome = true ∧ gathering.gather? 3 = none
          ∧ gathering.workPlace (.chunk 2) = some (placeOf .current layout3 2 0 1)
          ∧ gathering.workPlace (.chunk 3) = none)
      ∧ ((locking [] []).service? (.piece 0 0)).isSome = true := by
  unfold ParityUnit.locksSound
  decide +kernel

theorem test_case_RowGathered :
    (expanding.bridge.engine.allocation = some (.a, 0) ∧ expanding.bridge.engine.hold = none)
      ∧ (∀ f ∈ [fun e : Engine => { e with state := .idle }, fun e => { e with state := .held }
          , fun e => { e with state := .recover }, fun e => { e with state := .failed }, fun e => { e with cancel := true }
          , fun e => { e with hold := some .member }, fun e => { e with doneMark := 4 }],
        (f expanding.bridge.engine).allocation = none)
      ∧ gathering.engine.allocation = some (.b, 1)
      ∧ (let e := (gathering.allocateRow .b 1).engine;
        e.slotA.state ≠ .free ∧ e.slotB.state ≠ .free ∧ e.allocation = none)
      ∧ (layout3.rows * 2 - 1) / 3 = 2
      ∧ [2, 3].map (fun r => (((expanding.bridge.allocateRow .a r).engine.slot .a).state
          , ((expanding.bridge.allocateRow .a r).engine.slot .a).gathers)) = [(.gather, 2), (.full, 0)]
      ∧ stable.bridge.engine.target = none
      ∧ gathering.gather? 3 = none ∧ (gathering.gather? 2).map Gather.position = some 2
      ∧ ((gathering.gatherPresent 2 [7]).engine.slotA.state, (gathering.gatherPresent 2 [7]).engine.slotA.gathers)
          = (.gather, 2)
      ∧ (((gathering.gatherPresent 0 [5]).gatherPresent 1 [6]).gatherPresent 2 [7]).engine.slotA.state = .full
      ∧ gathering.engine.current = some layout3
      ∧ (let lost : List Nat → Bridge := fun l =>
          (l.foldl (fun b m => b.onMember m (fun e => { e with state := .failed })) gathering).releaseGather
            (heldGather 2 2);
        [lost [], lost [2], lost [1, 2]].map (fun b => (b.engine.state, b.work))
          = [(.copy, []), (.copy, [.handOver (.chunk 2) false]), (.failed, [])]) := by
  decide +kernel

theorem test_case_RowWrittenOut :
    3 ≤ 3 ∧ 1 < 3 - 1 ∧ (((writingOut 2).bridge.engine.slot .a).parity = some [0])
      ∧ (∀ n ∈ [1, 2], let e := (writingOut n).bridge.engine;
        e.state ≠ .failed ∧ (e.slot .a).state = .writing ∧ (e.slot .a).row = some 0 ∧ (e.slot .a).writes = n
          ∧ e.target ≠ none)
      ∧ ((writingOut 1).bridge.writeOutEnded .a).engine.doneMark = 1 := by decide +kernel

theorem test_case_RowWrittenOut_parked :
    let held := { (writingOut 1).bridge with port := parkedState.bridge.port, router := parkedState.bridge.router }
    (held.writeOutEnded .a).work
        = [.handOver (.piece 0 0) true, .handOver (.piece 1 0) true, .afterWriteOut 0]
      ∧ (((writingOut 1).bridge.onEngine (fun e => { e with target := none })).writeOutEnded .a).work
          = [.afterWriteOut 0] := by decide +kernel

/-- What the later steps of a write-out completion leave of an engine: its state and the checkpoint in flight. -/
def afterRow (e : Engine) (row : Nat) : EngineState × Option CheckpointKind :=
  let b := { expanding.bridge with engine := e }.afterWriteOut Settings.reset row
  (b.engine.state, b.engine.checkpoint.map Checkpoint.kind)

theorem test_case_RowWrittenOut_later :
    let e := { expanding.bridge.engine with state := .recover };
    (layout3.rows * 2 - 1) / 3 = 2
      ∧ [afterRow { e with state := .failed, doneMark := 4 } 3, afterRow { e with doneMark := 2 } 1
          , afterRow { e with doneMark := 3 } 2, afterRow { e with doneMark := 4 } 3
          , afterRow { e with volume := .initializing, target := none, doneMark := 4 } 3]
        = [(.failed, none), (.copy, some .clearing), (.fill, none), (.fill, some .final), (.fill, some .final)] := by
  decide +kernel

/-- The expanding volume with row `k` FULL in slot A, the next row in slot B, and CM at a value. -/
def rowFull (k mark : Nat) : Bridge :=
  expanding.bridge.onEngine (fun e =>
    { e with
      doneMark := k, checkMark := mark, slotA := { e.copySlot k with state := .full, gathers := 0 }
      slotB := { Slot.reset with state := .gather, row := some (k + 1) } })

/-- What the engine's next step leaves: slot A, the engine, the checkpoint in flight and the gate. -/
def advanced (b : Bridge) : Option (SlotState × EngineState × Option CheckpointKind × Option Nat) :=
  b.engineAdvance.map (fun b =>
    (b.engine.slotA.state, b.engine.state, b.engine.checkpoint.map Checkpoint.kind, b.router.gate))

/-- A bridge with a piece of current row `k` in the current-layout set. -/
def withCurrentRow (b : Bridge) (k : Nat) : Bridge := b.enterCurrent 0 0 k

theorem test_case_RowLeavesFull :
    (∀ k ∈ [0, 2], let e := (rowFull k 1).engine;
      e.leaving = some (.a, k) ∧ e.allocation = none ∧ e.holdsNow = false)
      ∧ expanding.bridge.engine.allocation = some (.a, 0) ∧ expanding.bridge.engine.holdsNow = false
      ∧ (stable.bridge.engine.allocation = none ∧ stable.bridge.engine.leaving = none
          ∧ stable.bridge.engine.holdsNow = false)
      ∧ (failing [0, 2]).health (failing [0, 2]).engine.writtenLayout = .broken := by decide +kernel

theorem test_case_RowLeavesFull_out :
    [rowFull 0 0, rowFull 2 1, rowFull 2 2, withCurrentRow (rowFull 2 2) 2
        , (rowFull 3 0).onEngine (fun e => { e with volume := .initializing, state := .fill, target := none })].map advanced
      = [some (.staging, .copy, none, none), some (.full, .copy, some .forced, none), some (.writing, .copy, none, none)
        , some (.writing, .copy, none, some 2), some (.writing, .fill, none, none)] := by decide +kernel

theorem test_case_RowLeavesFull_gate :
    let b := (withCurrentRow (rowFull 2 2) 2).leaveFull .a 2
    b.router.gate = some 2 ∧ b.testGate.router.gate = some 2
      ∧ (b.routerDone 0 0 none).router.gate = none ∧ (b.routerDone 0 0 none).work = [.gateOpened 2]
      ∧ b.engine.slotHolding 2 = some .a ∧ (b.gateOpened 2).engine.slotA.writes = 4 := by decide +kernel

/-- Row 0 in STAGING, with some stage writes outstanding. -/
def stagingRow (outstanding : Nat) (failed : Bool) : Bridge :=
  (rowFull 0 0).onEngine (fun e =>
    { e with
      slotA := { e.slotA with state := .staging }
      staging := some { column := 3, outstanding := outstanding, failed := failed } })

theorem test_case_CriticalRowStaged :
    let gone : Bridge → Bridge := fun b => b.onMember 3 (fun e => { e with state := .failed })
    let next : Bridge → Bridge := fun b => { b with work := [] }.perform Settings.reset .stageWritten
    (expanding.bridge.stageColumn = some 3 ∧ (gone expanding.bridge).stageColumn = none)
      ∧ (rowFull 0 0).engine.slotHolding 0 = some .a
      ∧ ((rowFull 0 0).stageRow.engine.staging = some { column := 3, outstanding := 3, failed := false }
          ∧ (gone (rowFull 0 0)).stageRow.engine.state = .failed)
      ∧ ((stagingRow 2 false).stageWriteEnded (.good [])).engine.staging
          = some { column := 3, outstanding := 1, failed := false }
      ∧ ((stagingRow 1 false).stageWriteEnded (.good [])).work = [.stageWritten]
      ∧ [(stagingRow 1 false).stageWriteEnded (.good []), (stagingRow 1 true).stageWriteEnded (.good [])
          , (gone (stagingRow 1 false)).stageWriteEnded .failed].map (fun b =>
            ((next b).engine.checkpoint.map Checkpoint.stage, (next b).engine.state))
        = [(some (some (0, 3)), .copy), (none, .copy), (none, .failed)]
      ∧ ((stagingRow 0 false).stageDurable.engine.slotA.state, (gone (stagingRow 0 false)).stageDurable.engine.state)
          = (.writing, .failed)
      ∧ (expanding.bridge.stageWriteEnded .failed).engine.staging = none := by decide +kernel

theorem test_case_CheckpointStarted :
    expanding.bridge.engine.generation ≠ BitVec.allOnes 64
      ∧ expanding.bridge.onlineMembers .target = [0, 1, 2, 3]
      ∧ (let b := expanding.bridge.startCheckpoint .openingStart none;
        (b.engine.generation, b.engine.checkpoint.map Checkpoint.threshold, (b.shelf 0).migration.map DriveCommand.block)
          = (3, some 3, [8, 8, 8, 8, 0]))
      ∧ (let b := (failing [0, 1]).startCheckpoint .final none;
        (b.engine.generation, b.engine.state) = (3, .failed)) := by decide +kernel

/-- The engine of the expanding volume with its marks set. -/
def marked (done check : Nat) : Engine := { expanding.bridge.engine with doneMark := done, checkMark := check }

/-- A checkpoint with some members good. -/
def checkpointOf (kind : CheckpointKind) (good : List Bool) : Checkpoint :=
  { kind := kind, generation := 3, mark := 0, stage := none, threshold := 3
    parts := good.map (fun g => { member := 0, outstanding := 0, good := g }) }

theorem test_case_CheckpointRules :
    (marked 4 2).doneMark = (marked 4 2).rows
      ∧ ((marked 1 0).doneMark ≠ (marked 1 0).rows ∧ (marked 1 0).volume = .expanding ∧ (marked 1 0).critical 0 = true)
      ∧ ((marked 3 1).doneMark ≠ (marked 3 1).rows ∧ (marked 3 1).critical 2 = false ∧ 2 ≤ 3 - 1)
      ∧ (3 - 1 < Settings.reset.cpInterval ∧ 1 ≤ Settings.reset.cpInterval)
      ∧ 3 ≤ ((checkpointOf .clearing [true, true, true, false]).parts.filter (fun p => p.good)).length
      ∧ ((checkpointOf .clearing [true, true, false, false]).parts.filter (fun p => p.good)).length < 3
      ∧ expanding.bridge.engine.state ≠ .failed
      ∧ (let b := expanding.bridge.startCheckpoint .forced none;
        let ended : Bridge → Nat → Bridge := fun b m => b.checkpointWriteEnded m (.good []);
        b.engine.checkpoint.isSome = true
          ∧ [ended (ended (ended b 0) 1) 2, ended (ended (ended (ended b 0) 1) 2) 3].map (fun b =>
              b.engine.durable.map Durable.generation) = [some 2, some 3])
      ∧ [(stagingRow 0 false).checkpointEnded (checkpointOf .stage [true, true, true, true])
          , (stagingRow 0 false).checkpointEnded (checkpointOf .final [true, true, true])].map Bridge.work
        = [[.stageDurable], []]
      ∧ [expanding.bridge.checkpointEnded (checkpointOf .final [true, true, true])
          , expanding.bridge.checkpointEnded (checkpointOf .cancel [true, true, true])
          , stable.bridge.checkpointEnded (checkpointOf .final [true, true, true])].map (fun b => b.engine.current)
        = [some layout4, some layout3, some layout3] := by decide +kernel

theorem test_case_FinalAndCancelCheckpoints :
    expanding.bridge.engine.target = some layout4 ∧ 3 < expanding.bridge.members.length
      ∧ (expanding.bridge.member 3).state = .online ∧ (expanding.bridge.member 3).targetColumn.isSome = true
      ∧ (expanding.bridge.member 3).currentColumn = none ∧ (expanding.bridge.member 0).currentColumn ≠ none
      ∧ (let b := (lastWrite .final none id).bridge;
        (b.piece? 0 0).isSome = true ∧ b.expansionDone.router.inCurrent = [{ tag := 0, index := 0, row := 0 }]
          ∧ (b.expansionDone.workPlace (.piece 0 0)).map Place.layout = some .current)
      ∧ [expanding.bridge.cancelDone.member 0, expanding.bridge.cancelDone.member 3].map Member.state = [.online, .present]
      ∧ stable.bridge.engine.target = none := by decide +kernel

/-- The service of a gather chunk at the parity unit. -/
def chunkService (arrival : BitVec 32) (outstanding : Nat) : Service :=
  { serviceOf false false .nothing with
    work := .chunk arrival, step := .reconstructReadPeers, outstanding := outstanding }

/-- Gather chunks that hold locks, with two commands and with none outstanding, and others that wait. -/
def chunksAtLocks : Bridge :=
  expanding.bridge.onParity (fun p =>
    { p with
      locks :=
        [{ layout := .current, row := 0, holder := .chunk 0, waiters := [.chunk 2, .piece 0 0] }
        , { layout := .current, row := 1, holder := .chunk 1, waiters := [.piece 1 0, .chunk 3] }
        , { layout := .current, row := 2, holder := .piece 2 0, waiters := [.chunk 4] }]
      allocation := [.chunk 5, .piece 3 0]
      services := chunkService 0 2 :: [1, 2, 3, 4, 5].map (fun a => chunkService a 0) })

theorem test_case_EngineFailureEffects :
    parkedState.bridge.engine.state ≠ .failed ∧ parkedState.bridge.router.parked.length = 2
      ∧ parkedState.bridge.failEngine.engine.state = .failed
      ∧ chunksAtLocks.parity.locksSound
      ∧ (let b := chunksAtLocks.withdrawChunks;
        b.parity.services = [{ chunkService 0 2 with withdrawn := true }]
          ∧ b.parity.locks.map LockEntry.holder = [.chunk 0, .piece 1 0, .piece 2 0]
          ∧ b.parity.locks.map LockEntry.waiters = [[.piece 0 0], [], []]
          ∧ b.parity.allocation = [.piece 3 0] ∧ b.work = [.beginService (.piece 1 0)]
          ∧ b.service? (.chunk 0) = some { chunkService 0 2 with withdrawn := true }
          ∧ ((b.stepCommandEnded (.chunk 0) (.peer 0) .failed).service? (.chunk 0)).map Service.outstanding = some 1) := by
  unfold ParityUnit.locksSound
  decide +kernel

theorem test_case_ProbeAndRecordReadAnswered :
    (let s := admitting (outstanding stable (admitProbe 5) 1) 1;
      s.bridge.tagEntry? 0 5 = some (entryOf (admitProbe 5) 1) ∧ s.bridge.memberFailed 5 = false ∧ s.bridge.shaped
        ∧ s.bridge.command.state = .executing 1)
      ∧ (State.reset.bridge.tagEntry? 0 15).isSome = true ∧ State.reset.bridge.shaped
      ∧ (State.reset.bridge.discovery.map (fun d => d.members.length)) = some 96
      ∧ 6 ≤ 4096 * Body.empty.blocks.length + (leBytes 6 1024).length
      ∧ (∀ odd, let s := outstanding discovering (recordRead odd) 1;
        s.bridge.tagEntry? 0 5 = some (entryOf (recordRead odd) 1) ∧ s.bridge.memberFailed 5 = false
          ∧ (recordRead odd).count = 1) := by
  unfold Bridge.shaped
  decide +kernel

/-- A discovery with one candidate record, read from members 0 and 1. -/
def discovered : Discovery :=
  { Discovery.reset with candidates := [{ block := (recordOf .stable).block, copies := [(0, true), (1, true)] }] }

theorem test_case_RecordsReadAndChosen :
    discovered.choice.isSome = true ∧ Discovery.reset.choice = none
      ∧ (∀ x ∈ discovered.candidates, (discovered.dissenting x).length ≤ 1)
      ∧ (discovering.bridge.discovery = some readingRecords ∧ readingRecords.answered 5 = true
          ∧ 5 < readingRecords.members.length ∧ 5 < discovering.bridge.members.length)
      ∧ (readRecord (recordOf .stable).block).isSome = true ∧ readRecord 0 = none
      ∧ (((discovering.bridge.recordReadEnded 5 true (.block (recordOf .stable).block)).recordReadEnded 5 false .media).member 5).best
          = some 1 := by decide +kernel

theorem test_case_RecordsReadAndChosen_candidate :
    let answered : Discovery :=
      { discovered with members := (List.range 96).map (fun m =>
          if m < 3 then { probe := .answered 1028, block0 := .ended, block8 := .ended } else DiscoveryMember.reset) }
    let c : Candidate := { block := (recordOf .stable).block, copies := [(1, true), (1, false), (0, true)] }
    readRecord c.block = some (recordOf .stable) ∧ c.copies ≠ []
      ∧ (c.generation, answered.dissenting c, c.rank) = (1, [2], 1)
      ∧ (1 ∈ c.holders ∧ 0 ∈ c.holders ∧ c.holders.length = 2) := by decide +kernel

/-- The part at the choice event: drives 0 to 3 have answered, and some of them hold a record. -/
def choosing (r : Record) (holders : List Nat) : Bridge :=
  { discovering.bridge with
    members := table (fun m => if m < 4 then drive else Member.reset)
    discovery := some
      { members := (List.range 96).map (fun m =>
          { probe := if m < 4 then .answered 1028 else .absent, block0 := .ended, block8 := .ended })
        candidates := [{ block := r.block, copies := holders.map (fun m => (m, true)) }], chosen := none
        stageReads := none } }

/-- What a choice event leaves: the engine and volume state, whether discovery runs on, slot A and the hold request. -/
def chosenState (b : Bridge) : EngineState × VolumeState × Bool × SlotState × Option HoldCause :=
  let b := b.choose
  (b.engine.state, b.engine.volume, b.discovery.isSome, b.engine.slotA.state, b.engine.hold)

theorem test_case_DiscoveryAdoptsRecord :
    (choosing (recordOf .stable) [0, 1, 2]).shaped
      ∧ [{ discovering.bridge with discovery := some Discovery.reset }, choosing (recordOf .stable) [0, 1, 2]
          , choosing (recordOf .initializing) [0, 1]].map chosenState
        = [(.idle, .unformed, false, .free, none), (.idle, .stable, false, .free, none)
          , (.fill, .initializing, false, .free, some .member)] := by
  unfold Bridge.shaped
  decide +kernel

theorem test_case_DiscoveryAdoptsRecord_expanding :
    let r := { recordOf .expanding with stage := none }
    r.generation ≠ BitVec.allOnes 64 ∧ [choosing r [0, 1, 2, 3], choosing { r with mark := 3 } [0, 1, 2, 3], choosing { r with mark := 4 } [0, 1, 2, 3]
        , choosing (recordOf .expanding) [0, 1, 2, 3], choosing (recordOf .expanding) [0, 1, 2]].map chosenState
      = [(.recover, .expanding, false, .gather, none), (.recover, .expanding, false, .full, none)
        , (.fill, .expanding, false, .free, none), (.recover, .discovering, true, .gather, none)
        , (.failed, .expanding, false, .gather, none)] := by
  decide +kernel

/-- A layout of which two columns have failed at the choice event. -/
theorem test_case_DiscoveryAdoptsRecord_broken :
    chosenState (choosing { recordOf .initializing with current := { layout3 with members := [0, 8, 9] } } [0])
      = (.failed, .initializing, false, .free, none) := by decide +kernel

/-- The same of an expansion whose record carries a stage record, its stage member absent: no slot and no mark (log
entry 26). -/
theorem test_case_DiscoveryAdoptsRecord_broken_stage :
    let t : Descriptor := { layout4 with members := [0, 1, 8, 9] }
    let b := choosing { recordOf .expanding with current := { layout3 with members := [0, 1, 8] }, target := some t } [0, 1]
    (chosenState b, b.choose.engine.stageLoss) = ((.failed, .expanding, false, .free, none), none) := by decide +kernel

theorem test_case_StageReadEnds :
    let b := (choosing (recordOf .expanding) [0, 1, 2, 3]).choose
    let c := (b.stageReadEnded 0 (.good [7])).stageReadEnded 1 (.good [8])
    b.discovery ≠ none ∧ b.engine.state ≠ .failed ∧ b.engine.slotA.state = .gather ∧ b.engine.slotA.gathers = 3
      ∧ c.engine.slotA.state = .gather ∧ c.engine.slotA.gathers = 1 ∧ c.engine.slotA.present = [true, true, false]
      ∧ c.router.inCurrent = [] ∧ c.health c.engine.writtenLayout = .ok
      ∧ (c.stageReadEnded 2 (.good [9])).engine.slotA.writes = 4
      ∧ (c.onMember 0 (fun e => { e with state := .failed })).health .target = .degraded
      ∧ ((c.onMember 0 (fun e => { e with state := .failed })).onMember 1 (fun e => { e with state := .failed })).health .target
          = .broken
      ∧ stable.bridge.discovery = none := by decide +kernel

/-- The line with a frame begun. -/
def filling (s : State) : State := { s with mgmt := { s.mgmt with line := .filling } }

def waitingFrame : WriteFrame := { bytes := [0x04, 0, 0, 4, 0, 0, 0], overlong := false }
def someReply : Reply := { control := [0xC1, 0, 0], data := [1, 2, 3, 4] }

theorem test_case_LineBytesAndWriteFrameTaken :
    stable.mgmt.line = .idle ∧ stable.mgmt.waiting.length < 2 ∧ 2 ≤ [waitingFrame, waitingFrame].length
      ∧ (filling stable).mgmt.line = .filling ∧ (0x81 : Byte).getLsbD 7 = true ∧ stable.mgmt.replies.length < 2
      ∧ 2 ≤ [someReply, someReply].length
      ∧ (∀ c, ([] : List Byte).head? = some c → c.getLsbD 7 = false)
      ∧ (∀ c ∈ [([0x04, 0] : List Byte), [0x04, 0, 0], List.replicate 37 0], (c.headD 0).getLsbD 7 = false) := by
  decide +kernel

/-- A read request whose first control byte has been taken, with one write frame waiting. -/
def requested (frame : List Byte) : State :=
  let s := withFrame stable frame
  { s with mgmt := { s.mgmt with line := .readControl 0x81 } }

theorem test_case_ReadRequestReplied :
    (let s : State := { stable with mgmt := { stable.mgmt with line := .readControl 0x81 } };
      s.mgmt.line = .readControl 0x81 ∧ s.mgmt.waiting = [])
      ∧ ((requested [0x04, 0, 0, 7, 0, 0, 0]).mgmt.line = .readControl 0x81
          ∧ (requested [0x04, 0, 0, 7, 0, 0, 0]).processOldest.mgmt.line = .readControl 0x81
          ∧ (requested [0x04, 0, 0, 9, 0, 0, 0]).processOldest.mgmt.line ≠ .readControl 0x81)
      ∧ [1, 2, 3, 4, 5, 6, 7, 15].map (fun n => ((BitVec.ofNat 8 (0x80 + n)).extractLsb' 0 4).toNat)
          = [1, 2, 3, 4, 5, 6, 7, 15]
      ∧ stable.bridge.engine.current = some layout3 ∧ stable.spaceBytes 6 0 2 = [3, 1]
      ∧ (let s := onBridge stable (fun _ => (choosing (recordOf .expanding) [0, 1, 2, 3]).choose);
        s.bridge.engine.volume = .discovering ∧ s.spaceBytes 6 0 2 = [0, 0])
      ∧ stable.bridge.port.capture = none
      ∧ (let x : Capture := { cause := .dupTag, header := List.replicate 16 9, computed := 5, overrun := true };
        (onBridge stable (fun b => { b with port := { b.port with capture := some x } })).spaceBytes 5 0 8
          = [2, 1, 5, 0, 9, 9, 9, 9])
      ∧ (expanding.bridge.engine.volume ≠ .discovering ∧ expanding.bridge.engine.target = some layout4
          ∧ expanding.spaceBytes 6 32 16 = [4, 1, 4, 0, 0, 0, 0, 0, 0, 1, 2, 3, 0, 0, 0, 0])
      ∧ (stable.spaceBytes 0 0 16 = [1, 0, 30, 2, 16, 48, 16, 4, 100, 0, 0, 1, 0x1F, 0, 0, 0]
          ∧ stable.spaceBytes 2 96 4 = [0, 0, 0, 0] ∧ stable.spaceBytes 2 1 8 = [2, 1, 0xFF, 0, 4, 4, 0, 0]) := by decide +kernel

theorem test_case_ReplyFetched :
    stable.mgmt.line = .idle ∧ stable.mgmt.replies = []
      ∧ ({ stable.mgmt with replies := [someReply] } : Management).replies
          = { control := 0xC1 :: [0, 0], data := [1, 2, 3, 4] } :: [] := by decide +kernel

theorem test_case_SettingsStored :
    (withFrame stable ([0x20, 0, 0] ++ List.replicate 16 1)).mgmt.waiting.head?.map WriteFrame.row = some .settings
      ∧ (withFrame stable [0x00, 0, 12, 0xFF, 0, 0, 0]).mgmt.waiting.head?.map WriteFrame.row = some .settings
      ∧ (withFrame stable [0x00, 0, 5, 1, 2, 3, 4]).mgmt.waiting.head?.map WriteFrame.row = some .settings := by
  decide +kernel

theorem test_case_YieldClamp :
    stable.mgmt.settings.inRange = true
      ∧ [[0x00, 0, 5, 0, 0, 0, 0], [0x00, 0, 5, 129, 0, 0, 0], [0x00, 0, 5, 128, 127, 0, 0], [0x00, 0, 6, 48, 0, 0, 0]
          , ([0x00, 0, 7, 1, 1, 1, 1] : List Byte)].map
            (fun f => (withFrame stable f).mgmt.waiting.head?.map WriteFrame.row) = List.replicate 5 (some .settings) := by
  decide +kernel

theorem test_case_StagedDescriptorStored :
    (withFrame stable [0x03, 0, 28, 9, 9, 9, 9]).mgmt.waiting.head?.map WriteFrame.row = some .staged
      ∧ stable.mgmt.staged.members.length = 24 := by decide +kernel

theorem test_case_FrameDiscardedCounted :
    [[0x04, 0, 0, 4, 0, 0], [0x44, 0, 0, 4, 0, 0, 0, 0], [0x01, 0, 0, 0, 0, 0, 0], [0x00, 0, 13, 0, 0, 0, 0]
        , [0x03, 0, 29, 0, 0, 0, 0], [0x04, 0, 1, 4, 0, 0, 0], [0x04, 0, 0, 10, 0, 0, 0]
        , ([0x14, 0, 0, 2, 0, 0, 0, 0, 0, 0, 0] : List Byte)].map
          (fun f => (withFrame stable f).mgmt.waiting.head?.map WriteFrame.row) = List.replicate 8 (some .discarded) := by
  decide +kernel

/-- The rows of frames of the nine commands. -/
theorem test_case_CommandsBusyOrRefused_busy :
    ([1, 3, 4, 5, 6, 7, 8, 9].map (fun (c : Byte) => (withCommand stable c 0).mgmt.waiting.head?.map WriteFrame.row)
        = [FrameRow.create, .start, .pause, .resume, .cancel, .ack, .clearCapture, .restart].map some)
      ∧ (withFrame stable ([0x24, 0, 0, 2] ++ List.replicate 15 0)).mgmt.waiting.head?.map WriteFrame.row
          = some .admitMembers
      ∧ (admitting stable 1).bridge.command.state = .executing 1 := by decide +kernel

theorem test_case_CommandsBusyOrRefused_refused :
    State.reset.bridge.engine.volume = .discovering ∧ stable.bridge.engine.volume ≠ .unformed
      ∧ unformed.bridge.engine.volume ≠ .stable ∧ stable.bridge.engine.state = .idle ∧ stable.bridge.engine.hold = none
      ∧ (onEngine expanding (fun e => { e with doneMark := 1 })).bridge.engine.doneMark ≠ 0
      ∧ expanding.bridge.command.state = .idle := by decide +kernel

theorem test_case_DescriptorRefused :
    unformed.bridge.command.state = .idle ∧ unformed.bridge.engine.volume = .unformed
      ∧ (staging unformed 1 [0, 1]).mgmt.staged.columns.toNat < 3 ∧ (staging unformed 3 [0, 1, 2]).mgmt.staged.chunk.toNat = 3
      ∧ (unformed.bridge.member 6).state ≠ .present
      ∧ 2 ^ 48 ≤ (2 ^ 48 - 1 - 1024) / 1 * (3 - 1) * 1
      ∧ stable.bridge.engine.current = some layout3 ∧ stable.bridge.engine.volume = .stable
      ∧ (stable.bridge.member 6).state ≠ .present := by decide +kernel

theorem test_case_CreateTaken :
    let s := withCommand (staging unformed 1 [0, 1, 2]) 1 0
    s.mgmt.waiting.head?.map WriteFrame.row = some .create ∧ s.bridge.command.state = .idle
      ∧ s.bridge.engine.volume = .unformed ∧ 3 ≤ s.mgmt.staged.columns.toNat ∧ s.mgmt.staged.columns.toNat ≤ 24
      ∧ layout3.wellFormed = true ∧ (s.mgmt.staged.members.take 3).map BitVec.toNat = layout3.members
      ∧ (smallest (layout3.members.map (fun m => (s.bridge.member m).capacity)) - 1024) / 1 = layout3.rows
      ∧ s.bridge.engine.generation ≠ BitVec.allOnes 64
      ∧ ∀ m ∈ layout3.members, (s.bridge.member m).state = .present := by decide +kernel

theorem test_case_StartTaken :
    let s := withCommand (staging stable 1 [0, 1, 2, 3]) 3 0
    s.mgmt.waiting.head?.map WriteFrame.row = some .start ∧ s.bridge.command.state = .idle
      ∧ s.bridge.engine.volume = .stable ∧ s.bridge.engine.current = some layout3
      ∧ layout3.members.length ≤ (layout3.members.filter s.bridge.memberOnline).length + 1
      ∧ layout4.wellFormed = true ∧ (s.mgmt.staged.members.take 4).map BitVec.toNat = layout4.members
      ∧ layout4.members.take 3 = layout3.members ∧ s.bridge.engine.generation ≠ BitVec.allOnes 64
      ∧ ∀ m ∈ layout4.members.drop 3, (s.bridge.member m).state = .present ∧ 1024 + 4 * 1 ≤ (s.bridge.member m).capacity := by
  decide +kernel

theorem test_case_AdmitTaken :
    (withFrame stable ([0x24, 0, 0, 2, 0xFF] ++ List.replicate 14 0)).mgmt.waiting.head?.map WriteFrame.row
        = some .admitMembers
      ∧ stable.bridge.command.state = .idle ∧ stable.bridge.engine.volume ≠ .discovering
      ∧ stable.bridge.admitted [0xFF] = [3, 4, 5, 6, 7] ∧ stable.bridge.admitted [0x07] = [] := by decide +kernel

theorem test_case_PauseAndResumeTaken_pause :
    (withCommand expanding 4 0).mgmt.waiting.head?.map WriteFrame.row = some .pause
      ∧ expanding.bridge.command.state = .idle ∧ expanding.bridge.engine.volume ≠ .discovering
      ∧ expanding.bridge.engine.state = .copy
      ∧ (onEngine expanding (fun e => { e with state := .held })).bridge.engine.state = .held
      ∧ [{ expanding.bridge.engine with hold := some .member }
          , { expanding.bridge.engine with hold := some .command, state := .fill, doneMark := 3 }
          , { expanding.bridge.engine with hold := some .command, volume := .initializing, state := .fill }].map (fun e =>
            (e.holdsNow, ({ expanding.bridge with engine := e }.enterHeld.engine.resume)
              , { expanding.bridge with engine := e }.enterHeld.causes))
        = [(true, some .copy, 0x04), (true, some .fill, 0), (true, some .fill, 0)] := by decide +kernel

theorem test_case_PauseAndResumeTaken_resume :
    (withCommand expanding 5 0).mgmt.waiting.head?.map WriteFrame.row = some .resume
      ∧ (∀ l ∈ expanding.bridge.engine.neededLayouts, expanding.bridge.health l ≠ .broken)
      ∧ expanding.bridge.engine.current = some layout3 ∧ expanding.bridge.engine.target = some layout4
      ∧ (let e := { expanding.bridge.engine with state := .held, volume := .initializing, target := none };
        ∀ l ∈ e.neededLayouts, expanding.bridge.health l ≠ .broken)
      ∧ (onEngine expanding (fun e => { e with hold := some .command })).bridge.engine.hold ≠ none := by decide +kernel

theorem test_case_CancelTaken :
    (withCommand expanding 6 0).mgmt.waiting.head?.map WriteFrame.row = some .cancel
      ∧ expanding.bridge.engine.volume = .expanding ∧ expanding.bridge.engine.doneMark = 0
      ∧ expanding.bridge.engine.state = .copy ∧ expanding.bridge.engine.slotLeaving = false
      ∧ expanding.bridge.engine.checkpoint = none ∧ expanding.bridge.engine.generation ≠ BitVec.allOnes 64
      ∧ expanding.bridge.engine.durable = some { generation := 2, mark := 0, stage := none }
      ∧ layout3.members.length ≤ (layout3.members.filter expanding.bridge.memberOnline).length + 1 := by decide +kernel

theorem test_case_AckAndClearCapture :
    (withCommand stable 7 0xFF).mgmt.waiting.head?.map WriteFrame.row = some .ack
      ∧ (withCommand stable 8 0).mgmt.waiting.head?.map WriteFrame.row = some .clearCapture
      ∧ stable.bridge.command.state = .idle := by decide +kernel

theorem test_case_StepKeepsSound : stable.sound ∧ ∃ t, step { stable with pending := [.lineAddressByte 0x58] } = .next t :=
  ⟨by unfold State.sound State.alertRight ArrayPort.sound Bridge.shaped; decide +kernel, _, rfl⟩

end Sys2Proof.Tests
end

section
/-! PROOFS. The target rows that hold a current row, its critical rows and its guard (R18 to R20). Every fact comes down to
two chunks of the current row, its first and its last: the lowest and the highest target row are the rows of these two
in the target layout, and the row of a chunk does not decrease with the chunk. -/

namespace Sys2Proof.Machine

open Sys2Proof

/-! The first and the last chunk of a row. -/

/-- The first chunk of a row of a layout (R7). -/
def firstChunk (columns row : Nat) : Nat := row * (columns - 1)

/-- The last chunk of a row of a layout (R18). -/
def lastChunk (columns row : Nat) : Nat := (row + 1) * (columns - 1) - 1

theorem lowestTargetRow_eq_rowOf (n n' k : Nat) : lowestTargetRow n n' k = rowOf n' (firstChunk n k) := rfl

theorem highestTargetRow_eq_rowOf (n n' k : Nat) : highestTargetRow n n' k = rowOf n' (lastChunk n k) := rfl

theorem rowOf_mono (n : Nat) {d e : Nat} (h : d ≤ e) : rowOf n d ≤ rowOf n e := Nat.div_le_div_right h

theorem rowOf_add_dataColumns {n : Nat} (hn : 2 ≤ n) (d : Nat) : rowOf n (d + (n - 1)) = rowOf n d + 1 :=
  Nat.add_div_right d (by omega)

theorem le_rowOf_iff {n : Nat} (hn : 2 ≤ n) {k d : Nat} : k ≤ rowOf n d ↔ firstChunk n k ≤ d :=
  Nat.le_div_iff_mul_le (by omega)

theorem rowOf_le_iff {n : Nat} (hn : 2 ≤ n) {k d : Nat} : rowOf n d ≤ k ↔ d ≤ lastChunk n k := by
  have hpos : 0 < (k + 1) * (n - 1) := Nat.mul_pos k.succ_pos (by omega)
  calc rowOf n d ≤ k ↔ d / (n - 1) < k + 1 := Nat.lt_succ_iff.symm
    _ ↔ d < (k + 1) * (n - 1) := Nat.div_lt_iff_lt_mul (by omega)
    _ ↔ d ≤ lastChunk n k := Nat.lt_iff_le_pred hpos

/-- A row holds the chunks from its first to its last. -/
theorem rowOf_eq_iff {n : Nat} (hn : 2 ≤ n) {k d : Nat} : rowOf n d = k ↔ firstChunk n k ≤ d ∧ d ≤ lastChunk n k := by
  rw [← le_rowOf_iff hn, ← rowOf_le_iff hn]
  omega

theorem lastChunk_eq_firstChunk_add {n : Nat} (hn : 2 ≤ n) (k : Nat) : lastChunk n k = firstChunk n k + (n - 2) := by
  have hnext : (k + 1) * (n - 1) = k * (n - 1) + (n - 1) := Nat.succ_mul k (n - 1)
  unfold lastChunk firstChunk
  omega

theorem firstChunk_le_lastChunk {n : Nat} (hn : 2 ≤ n) (k : Nat) : firstChunk n k ≤ lastChunk n k := by
  rw [lastChunk_eq_firstChunk_add hn]
  omega

theorem rowOf_firstChunk {n : Nat} (hn : 2 ≤ n) (k : Nat) : rowOf n (firstChunk n k) = k :=
  (rowOf_eq_iff hn).mpr ⟨le_rfl, firstChunk_le_lastChunk hn k⟩

theorem rowOf_lastChunk {n : Nat} (hn : 2 ≤ n) (k : Nat) : rowOf n (lastChunk n k) = k :=
  (rowOf_eq_iff hn).mpr ⟨firstChunk_le_lastChunk hn k, le_rfl⟩

theorem firstChunk_mono (n : Nat) {k j : Nat} (h : k ≤ j) : firstChunk n k ≤ firstChunk n j := Nat.mul_le_mul_right _ h

theorem lastChunk_mono (n : Nat) {k j : Nat} (h : k ≤ j) : lastChunk n k ≤ lastChunk n j :=
  Nat.sub_le_sub_right (Nat.mul_le_mul_right _ (Nat.succ_le_succ h)) 1

/-- A wider layout has the last chunk of row k no earlier. -/
theorem lastChunk_le_of_columns_le {n n' : Nat} (h : n ≤ n') (k : Nat) : lastChunk n k ≤ lastChunk n' k :=
  Nat.sub_le_sub_right (Nat.mul_le_mul_left _ (Nat.sub_le_sub_right h 1)) 1

/-- Each row of the wider layout takes n' − n more chunks, so its row k begins k times as many later. -/
theorem firstChunk_eq_add_of_columns_le {n n' : Nat} (hn : 1 ≤ n) (h : n ≤ n') (k : Nat) :
    firstChunk n' k = firstChunk n k + k * (n' - n) := by
  have hwidth : n' - 1 = (n - 1) + (n' - n) := by omega
  unfold firstChunk
  rw [hwidth, Nat.mul_add]

/-! The target rows of a current row (R18). -/

theorem lowestTargetRow_le_highestTargetRow {n : Nat} (hn : 2 ≤ n) (n' k : Nat) :
    lowestTargetRow n n' k ≤ highestTargetRow n n' k :=
  rowOf_mono n' (firstChunk_le_lastChunk hn k)

theorem highestTargetRow_le_self {n n' : Nat} (hn : 2 ≤ n) (h : n ≤ n') (k : Nat) : highestTargetRow n n' k ≤ k :=
  (rowOf_le_iff (hn.trans h)).mpr (lastChunk_le_of_columns_le h k)

/-- The chunks of a current row span no more than one target row, so they lie in two at most. -/
theorem highestTargetRow_le_lowestTargetRow_add_one {n n' : Nat} (hn : 2 ≤ n) (h : n ≤ n') (k : Nat) :
    highestTargetRow n n' k ≤ lowestTargetRow n n' k + 1 := by
  have hspan : lastChunk n k ≤ firstChunk n k + (n' - 1) := by
    rw [lastChunk_eq_firstChunk_add hn]
    omega
  calc highestTargetRow n n' k ≤ rowOf n' (firstChunk n k + (n' - 1)) := rowOf_mono n' hspan
    _ = lowestTargetRow n n' k + 1 := rowOf_add_dataColumns (hn.trans h) _

theorem lowestTargetRow_mono (n n' : Nat) {k j : Nat} (h : k ≤ j) : lowestTargetRow n n' k ≤ lowestTargetRow n n' j :=
  rowOf_mono n' (firstChunk_mono n h)

theorem highestTargetRow_mono (n n' : Nat) {k j : Nat} (h : k ≤ j) :
    highestTargetRow n n' k ≤ highestTargetRow n n' j :=
  rowOf_mono n' (lastChunk_mono n h)

theorem rowOf_target_bounds {n : Nat} (hn : 2 ≤ n) (n' : Nat) {k d : Nat} (hd : rowOf n d = k) :
    lowestTargetRow n n' k ≤ rowOf n' d ∧ rowOf n' d ≤ highestTargetRow n n' k := by
  obtain ⟨hfirst, hlast⟩ := (rowOf_eq_iff hn).mp hd
  exact ⟨rowOf_mono n' hfirst, rowOf_mono n' hlast⟩

/-! Critical rows and the guard (R19, R20). -/

theorem criticalRow_iff (n n' k : Nat) : criticalRow n n' k = true ↔ highestTargetRow n n' k = k := beq_iff_eq

/-- A row is critical when its last chunk is not before the first chunk of the target row of its number. -/
theorem criticalRow_iff_firstChunk_le {n n' : Nat} (hn : 2 ≤ n) (h : n ≤ n') (k : Nat) :
    criticalRow n n' k = true ↔ firstChunk n' k ≤ lastChunk n k := by
  rw [criticalRow_iff, ← le_rowOf_iff (hn.trans h), ← highestTargetRow_eq_rowOf]
  have hle := highestTargetRow_le_self hn h k
  omega

theorem criticalRow_iff_mul_le {n n' : Nat} (hn : 2 ≤ n) (h : n ≤ n') (k : Nat) :
    criticalRow n n' k = true ↔ k * (n' - n) ≤ n - 2 := by
  rw [criticalRow_iff_firstChunk_le hn h, firstChunk_eq_add_of_columns_le (by omega) h,
    lastChunk_eq_firstChunk_add hn, Nat.add_le_add_iff_left]

/-- The critical rows of a layout of `rows` rows are those up to kx. -/
theorem criticalRow_iff_le_kx {n n' k rows : Nat} (hn : 2 ≤ n) (h : n < n') (hk : k < rows) :
    criticalRow n n' k = true ↔ k ≤ min ((n - 2) / (n' - n)) (rows - 1) := by
  rw [criticalRow_iff_mul_le hn h.le, ← Nat.le_div_iff_mul_le (by omega)]
  omega

theorem criticalRow_zero {n n' : Nat} (hn : 2 ≤ n) (h : n ≤ n') : criticalRow n n' 0 = true := by
  rw [criticalRow_iff_mul_le hn h, Nat.zero_mul]
  exact Nat.zero_le _

theorem lowestTargetRow_of_criticalRow {n n' k : Nat} (hn : 2 ≤ n) (h : n ≤ n') (hc : criticalRow n n' k = true) :
    lowestTargetRow n n' k = k - 1 ∨ lowestTargetRow n n' k = k := by
  have hhigh := (criticalRow_iff n n' k).mp hc
  have hle := lowestTargetRow_le_highestTargetRow hn n' k
  have hspan := highestTargetRow_le_lowestTargetRow_add_one hn h k
  omega

theorem highestTargetRow_lt_of_not_criticalRow {n n' k : Nat} (hn : 2 ≤ n) (h : n ≤ n')
    (hc : criticalRow n n' k = false) : highestTargetRow n n' k < k :=
  lt_of_le_of_ne (highestTargetRow_le_self hn h k) fun heq =>
    Bool.false_ne_true (hc.symm.trans ((criticalRow_iff n n' k).mpr heq))

theorem guardThreshold_eq (n n' k : Nat) : guardThreshold n n' k = highestTargetRow n n' k + 1 := rfl

theorem guardThreshold_mono (n n' : Nat) {j k : Nat} (h : j ≤ k) : guardThreshold n n' j ≤ guardThreshold n n' k :=
  Nat.succ_le_succ (highestTargetRow_mono n n' h)

theorem Engine.guardMet_iff {e : Engine} {c t : Descriptor} (hc : e.current = some c) (ht : e.target = some t)
    (row : Nat) : e.guardMet row = true ↔ guardThreshold c.columns t.columns row ≤ e.checkMark := by
  simp [Engine.guardMet, hc, ht]

theorem Engine.guardMet_of_no_target {e : Engine} (ht : e.target = none) (row : Nat) : e.guardMet row = true := by
  simp [Engine.guardMet, ht]

/-- The greatest kx of any two layouts is at most that of 23 and 24 columns. -/
theorem kx_le_21 {n n' : Nat} (h : n < n') (hmax : n' ≤ 24) : (n - 2) / (n' - n) ≤ 21 :=
  calc (n - 2) / (n' - n) ≤ n - 2 := Nat.div_le_self _ _
    _ ≤ 21 := by omega

/-! The statements. -/

/-- Settles O6, from the first and the last chunk of the current row: they bound its chunks and reach both target rows. -/
theorem currentRowInTargetRows : Obligations.CurrentRowInTargetRows := by
  intro n n' k hn hlt
  have hn2 : 2 ≤ n := by omega
  have hspan := highestTargetRow_le_lowestTargetRow_add_one hn2 hlt.le k
  exact ⟨rfl, rfl, lowestTargetRow_le_highestTargetRow hn2 n' k, highestTargetRow_le_self hn2 hlt.le k, by omega,
    fun _ h => ⟨lowestTargetRow_mono n n' h, highestTargetRow_mono n n' h⟩, fun _ => rowOf_target_bounds hn2 n',
    ⟨firstChunk n k, rowOf_firstChunk hn2 k, (lowestTargetRow_eq_rowOf n n' k).symm⟩,
    ⟨lastChunk n k, rowOf_lastChunk hn2 k, (highestTargetRow_eq_rowOf n n' k).symm⟩⟩

/-- Settles O7: the forms of the test for a critical row, the thresholds from the highest target row, and the guard from
the two descriptors of the engine. -/
theorem criticalRowsAndThresholds : Obligations.CriticalRowsAndThresholds := by
  refine ⟨fun n n' k hn hlt => ?_, fun _ _ _ k hc ht => Engine.guardMet_iff hc ht k,
    fun _ k ht => Engine.guardMet_of_no_target ht k, fun _ _ _ => kx_le_21, by decide⟩
  have hn2 : 2 ≤ n := by omega
  have hnot : criticalRow n n' k = false → highestTargetRow n n' k ≤ k - 1 ∧ guardThreshold n n' k ≤ k := by
    intro hc
    have hbelow := highestTargetRow_lt_of_not_criticalRow hn2 hlt.le hc
    exact ⟨Nat.le_sub_one_of_lt hbelow, hbelow⟩
  exact ⟨criticalRow_iff n n' k, criticalRow_iff_firstChunk_le hn2 hlt.le k, criticalRow_iff_mul_le hn2 hlt.le k,
    fun _ => criticalRow_iff_le_kx hn2 hlt, criticalRow_zero hn2 hlt.le, lowestTargetRow_of_criticalRow hn2 hlt.le,
    guardThreshold_eq n n' k, hnot, fun _ => guardThreshold_mono n n', fun _ _ h => (guardThreshold_mono n n' h).trans⟩

end Sys2Proof.Machine
end

section
/-! PROOFS. The settings yield_enter and yield_exit in a settings write (R154, R185): what a write that covers their bytes
stores, that yield_exit stays below yield_enter, and that space 0 reads both back. -/

namespace Sys2Proof.Machine

open Sys2Proof

/-! The bytes that a write covers, and the clamps. -/

theorem covers_iff (index : Nat) (data : List Byte) (o : Nat) :
    covers index data o = true ↔ index ≤ o ∧ o < index + data.length := by
  simp [covers]

theorem written_of_covers {index o : Nat} {data : List Byte} (h : covers index data o = true) (old : Nat) :
    written index data o old = (data.getD (o - index) 0).toNat := if_pos h

theorem written_eq_ite (index : Nat) (data : List Byte) (o old : Nat) :
    written index data o old =
      if index ≤ o ∧ o < index + data.length then (data.getD (o - index) 0).toNat else old :=
  if_congr (covers_iff index data o) rfl rfl

theorem clamp_of_le_low {low high v : Nat} (h : v ≤ low) : clamp low high v = low := by
  unfold clamp; omega

theorem clamp_of_high_le {low high v : Nat} (range : low ≤ high) (h : high ≤ v) : clamp low high v = high := by
  unfold clamp; omega

theorem clamp_of_mem {low high v : Nat} (hlow : low ≤ v) (hhigh : v ≤ high) : clamp low high v = v := by
  unfold clamp; omega

theorem clamp_bounds {low high : Nat} (range : low ≤ high) (v : Nat) :
    low ≤ clamp low high v ∧ clamp low high v ≤ high := by
  unfold clamp; omega

theorem yieldClamp_of_le {enter exit : Nat} (h : enter ≤ exit) : yieldClamp enter exit = enter - 1 := if_pos h

theorem yieldClamp_of_lt {enter exit : Nat} (h : exit < enter) : yieldClamp enter exit = exit := if_neg (Nat.not_le.2 h)

theorem yieldClamp_lt {enter : Nat} (h : 1 ≤ enter) (exit : Nat) : yieldClamp enter exit < enter := by
  rcases Nat.lt_or_ge exit enter with below | above
  · rwa [yieldClamp_of_lt below]
  · rw [yieldClamp_of_le above]
    omega

/-! The two settings after a write. -/

section
variable {c : Settings} {index : Nat} {data : List Byte}

theorem Settings.write_yieldEnter_of_covers (h : covers index data 5 = true) :
    (c.write index data).yieldEnter = clamp 1 128 (data.getD (5 - index) 0).toNat :=
  (if_pos h).trans (congrArg (clamp 1 128) (written_of_covers h _))

theorem Settings.write_yieldEnter_of_not_covers (h : ¬covers index data 5 = true) :
    (c.write index data).yieldEnter = c.yieldEnter := if_neg h

theorem Settings.write_yieldExit_of_covers (h : covers index data 5 = true ∨ covers index data 6 = true) :
    (c.write index data).yieldExit = yieldClamp (c.write index data).yieldEnter (written index data 6 c.yieldExit) :=
  if_pos (Bool.or_eq_true_iff.2 h)

theorem Settings.write_yieldExit_of_not_covers (henter : ¬covers index data 5 = true)
    (hexit : ¬covers index data 6 = true) :
    (c.write index data).yieldExit = c.yieldExit :=
  if_neg fun h => (Bool.or_eq_true_iff.1 h).elim henter hexit

end

/-- yield_enter lies in 1 to 128, and yield_exit below it (R154). -/
def Settings.yieldsInRange (c : Settings) : Prop := 1 ≤ c.yieldEnter ∧ c.yieldEnter ≤ 128 ∧ c.yieldExit < c.yieldEnter

theorem Settings.yieldsInRange_of_inRange {c : Settings} (h : c.inRange = true) : c.yieldsInRange := by
  simp only [Settings.inRange, Bool.and_eq_true, decide_eq_true_eq] at h
  unfold Settings.yieldsInRange
  omega

/-- A write that covers yield_enter brings both settings into their ranges; any other rests on the ranges before it. -/
theorem Settings.write_yieldsInRange {c : Settings} (h : c.yieldsInRange) (index : Nat) (data : List Byte) :
    (c.write index data).yieldsInRange := by
  obtain ⟨low, high, below⟩ := h
  have henter : 1 ≤ (c.write index data).yieldEnter ∧ (c.write index data).yieldEnter ≤ 128 := by
    by_cases h5 : covers index data 5 = true
    · rw [Settings.write_yieldEnter_of_covers h5]
      exact clamp_bounds (by omega) _
    · rw [Settings.write_yieldEnter_of_not_covers h5]
      exact ⟨low, high⟩
  have hexit : (c.write index data).yieldExit < (c.write index data).yieldEnter := by
    by_cases hw : covers index data 5 = true ∨ covers index data 6 = true
    · rw [Settings.write_yieldExit_of_covers hw]
      exact yieldClamp_lt henter.1 _
    · obtain ⟨h5, h6⟩ := not_or.1 hw
      rwa [Settings.write_yieldExit_of_not_covers h5 h6, Settings.write_yieldEnter_of_not_covers h5]
  exact ⟨henter.1, henter.2, hexit⟩

/-! The frame and the space. -/

/-- The state that a settings frame leaves: its bytes stored, its buffer empty, and the alert line following. -/
def State.afterSettings (s : State) (f : WriteFrame) (rest : List WriteFrame) : State :=
  ((s.beforeFrame rest).onMgmt (fun m => { m with settings := m.settings.write f.index f.data })).driveAlert

theorem exec_settingsWrite {s : State} {f : WriteFrame} {rest : List WriteFrame} (waiting : s.mgmt.waiting = f :: rest)
    (own : f.row = .settings) : exec .settingsWrite s = .next (s.afterSettings f rest) := by
  have applied : (s.beforeFrame rest).applyFrame f
      = (s.beforeFrame rest).onMgmt (fun m => { m with settings := m.settings.write f.index f.data }) := by
    simp only [State.applyFrame, own]
  calc exec .settingsWrite s = .next (s.processAs .settings) := rfl
    _ = .next (s.afterSettings f rest) := by rw [State.processAs_waiting waiting own, applied, State.afterSettings]

@[simp] theorem State.afterSettings_settings (s : State) (f : WriteFrame) (rest : List WriteFrame) :
    (s.afterSettings f rest).mgmt.settings = s.mgmt.settings.write f.index f.data := rfl

theorem State.afterSettings_frameErrors (s : State) (f : WriteFrame) (rest : List WriteFrame) :
    (s.afterSettings f rest).mgmt.frameErrors = s.mgmt.frameErrors := rfl

/-- Bytes 5 and 6 of space 0 are yield_enter and yield_exit (R185). -/
theorem State.spaceBytes_yields (s : State) :
    s.spaceBytes 0 5 2 = [BitVec.ofNat 8 s.mgmt.settings.yieldEnter, BitVec.ofNat 8 s.mgmt.settings.yieldExit] := rfl

/-! The statement. -/

/-- Settles O48: a settings frame stores `Settings.write` of its bytes, in which each clause is a case of what the write
covers, and the bounds hold after it because they hold before. -/
theorem Settings.yieldClamp : Obligations.YieldClamp := by
  refine ⟨rfl, rfl, fun s f rest waiting own range => ⟨_, exec_settingsWrite waiting own, ?_⟩⟩
  simp only [State.afterSettings_settings, ← written_eq_ite]
  simp only [← covers_iff]
  obtain ⟨low, high, below⟩ := Settings.write_yieldsInRange (Settings.yieldsInRange_of_inRange range) f.index f.data
  refine ⟨?zero, ?above, ?within, Settings.write_yieldEnter_of_not_covers, ?exitLowered, ?exitStored,
    Settings.write_yieldExit_of_not_covers, low, high, by omega, below,
    s.afterSettings_frameErrors f rest, State.spaceBytes_yields _⟩
  case zero => exact fun h5 hv => (Settings.write_yieldEnter_of_covers h5).trans (clamp_of_le_low (by omega))
  case above => exact fun h5 hv => (Settings.write_yieldEnter_of_covers h5).trans (clamp_of_high_le (by omega) hv.le)
  case within => exact fun h5 hlow hhigh => (Settings.write_yieldEnter_of_covers h5).trans (clamp_of_mem hlow hhigh)
  case exitLowered => exact fun hw hle => (Settings.write_yieldExit_of_covers hw).trans (yieldClamp_of_le hle)
  case exitStored => exact fun hw hlt => (Settings.write_yieldExit_of_covers hw).trans (yieldClamp_of_lt hlt)

end Sys2Proof.Machine
end

section
/-! PROOFS. Every step keeps the part sound (R23, R41, R179, R182, R185, R195): the operations of an event keep the request table
and the shape of the part, the management line keeps its buffers and settings, and an event lets the alert line follow. -/

namespace Sys2Proof.Machine

open Sys2Proof

/-! What makes the management controller sound, each part by itself. -/

/-- The settings lie in their ranges (R185), the two yields apart. -/
theorem Settings.inRange_iff (c : Settings) :
    c.inRange = true ↔
      (1 ≤ c.cmdTimeout ∧ c.cmdTimeout ≤ 255) ∧ c.retryLimit ≤ 7 ∧ (1 ≤ c.mediaLimit ∧ c.mediaLimit ≤ 255)
        ∧ c.yieldsInRange ∧ (1 ≤ c.weight ∧ c.weight ≤ 16) ∧ (1 ≤ c.starveLimit ∧ c.starveLimit ≤ 1000)
        ∧ 1 ≤ c.cpInterval ∧ c.cpInterval ≤ 4096 := by
  simp only [Settings.inRange, Settings.yieldsInRange, Bool.and_eq_true, decide_eq_true_eq]
  tauto

theorem stored_bounds {low high before : Nat} (range : low ≤ high) (old : low ≤ before ∧ before ≤ high) (covered : Bool)
    (new : Nat) : low ≤ stored covered low high new before ∧ stored covered low high new before ≤ high := by
  cases covered
  · exact old
  · exact clamp_bounds range new

/-- A write of settings brings what it covers into range and leaves the rest (R185). -/
theorem Settings.write_inRange {c : Settings} (h : c.inRange = true) (index : Nat) (data : List Byte) :
    (c.write index data).inRange = true := by
  obtain ⟨timeout, retry, media, yields, weight, starve, interval⟩ := c.inRange_iff.1 h
  exact (Settings.inRange_iff _).2
    ⟨stored_bounds (by omega) timeout _ _, (stored_bounds (by omega) ⟨Nat.zero_le _, retry⟩ _ _).2,
      stored_bounds (by omega) media _ _, Settings.write_yieldsInRange yields index data,
      stored_bounds (by omega) weight _ _, stored_bounds (by omega) starve _ _,
      stored_bounds (by omega) interval _ _⟩

@[simp] theorem spliceAt_length {α : Type} (items : List α) (start : Nat) (new : List α) :
    (spliceAt items start new).length = items.length := by
  simp only [spliceAt, List.length_append, List.length_take, List.length_drop]
  omega

/-- A write of the staged descriptor keeps its 24 member list entries (R187). -/
theorem StagedDescriptor.write_members_length {d : StagedDescriptor} (h : d.members.length = 24) (index : Nat)
    (data : List Byte) : (d.write index data).members.length = 24 := by
  simp [StagedDescriptor.write, StagedDescriptor.bytes, h]

/-- A stored frame has its three control bytes and no more than its buffer holds (R179). -/
def WriteFrame.stored (f : WriteFrame) : Prop := 3 ≤ f.bytes.length ∧ f.bytes.length ≤ Config.bufferBytes

theorem Management.sound_iff (m : Management) :
    m.sound = true ↔
      m.receiveInUse ≤ Config.receiveBuffers ∧ m.transmitInUse ≤ Config.transmitBuffers ∧ m.settings.inRange = true
        ∧ (∀ f ∈ m.waiting, f.stored) ∧ m.staged.members.length = 24 := by
  simp only [Management.sound, WriteFrame.stored, Bool.and_eq_true, decide_eq_true_eq, List.all_eq_true, beq_iff_eq]
  tauto

/-! The buffers in use, by the state of the line. -/

theorem Management.receiveInUse_le (m : Management) : m.waiting.length ≤ m.receiveInUse := Nat.le_add_right _ _

theorem Management.transmitInUse_le (m : Management) : m.replies.length ≤ m.transmitInUse := Nat.le_add_right _ _

/-- The line that becomes idle frees the buffer it held. -/
theorem Management.sound_idle {m : Management} (h : m.sound = true) :
    ({ m with line := .idle } : Management).sound = true := by
  obtain ⟨receive, transmit, rest⟩ := m.sound_iff.1 h
  exact (Management.sound_iff _).2 ⟨m.receiveInUse_le.trans receive, m.transmitInUse_le.trans transmit, rest⟩

/-- With a receive buffer empty the line may fill it (R179). -/
theorem Management.sound_filling {m : Management} (h : m.sound = true) (room : m.waiting.length < Config.receiveBuffers) :
    ({ m with line := .filling } : Management).sound = true := by
  obtain ⟨-, transmit, rest⟩ := m.sound_iff.1 h
  exact (Management.sound_iff _).2 ⟨room, m.transmitInUse_le.trans transmit, rest⟩

/-- With a transmit buffer empty the line may take a read request (R182). -/
theorem Management.sound_readControl {m : Management} (h : m.sound = true)
    (room : m.replies.length < Config.transmitBuffers) (control : Byte) :
    ({ m with line := .readControl control } : Management).sound = true := by
  obtain ⟨receive, -, rest⟩ := m.sound_iff.1 h
  exact (Management.sound_iff _).2 ⟨m.receiveInUse_le.trans receive, room, rest⟩

/-- The buffer that the line was filling takes the complete frame (R179). -/
theorem Management.sound_frame {m : Management} (h : m.sound = true) (filling : m.line = .filling) {f : WriteFrame}
    (stored : f.stored) : ({ m with line := .idle, waiting := m.waiting ++ [f] } : Management).sound = true := by
  obtain ⟨receive, transmit, settings, frames, staged⟩ := m.sound_iff.1 h
  refine (Management.sound_iff _).2 ⟨?_, m.transmitInUse_le.trans transmit, settings, fun x hx => ?_, staged⟩
  · simpa [Management.receiveInUse, filling] using receive
  · rcases List.mem_append.1 hx with hx | hx
    · exact frames x hx
    · exact List.mem_singleton.1 hx ▸ stored

/-- The buffer that a read request holds takes its reply (R182). -/
theorem Management.sound_reply {m : Management} (h : m.sound = true) {control : Byte} (taking : m.line = .readControl control)
    (r : Reply) : ({ m with line := .idle, replies := m.replies ++ [r] } : Management).sound = true := by
  obtain ⟨receive, transmit, rest⟩ := m.sound_iff.1 h
  refine (Management.sound_iff _).2 ⟨m.receiveInUse_le.trans receive, ?_, rest⟩
  simpa [Management.transmitInUse, taking] using transmit

/-- A frame that leaves its buffer (R180). -/
theorem Management.sound_processed {m : Management} (h : m.sound = true) {f : WriteFrame} {rest : List WriteFrame}
    (waiting : m.waiting = f :: rest) : ({ m with waiting := rest } : Management).sound = true := by
  obtain ⟨receive, transmit, settings, frames, staged⟩ := m.sound_iff.1 h
  refine (Management.sound_iff _).2 ⟨?_, transmit, settings, fun x hx => ?_, staged⟩
  · simp only [Management.receiveInUse, waiting, List.length_cons] at receive ⊢
    omega
  · exact frames x (waiting ▸ List.mem_cons_of_mem f hx)

/-- A reply that is consumed (R182). -/
theorem Management.sound_fetched {m : Management} (h : m.sound = true) {r : Reply} {rest : List Reply}
    (replies : m.replies = r :: rest) : ({ m with replies := rest } : Management).sound = true := by
  obtain ⟨receive, transmit, others⟩ := m.sound_iff.1 h
  refine (Management.sound_iff _).2 ⟨receive, ?_, others⟩
  simp only [Management.transmitInUse, replies, List.length_cons] at transmit ⊢
  omega

theorem Management.sound_settings {m : Management} (h : m.sound = true) (index : Nat) (data : List Byte) :
    ({ m with settings := m.settings.write index data } : Management).sound = true := by
  obtain ⟨receive, transmit, settings, rest⟩ := m.sound_iff.1 h
  exact (Management.sound_iff _).2 ⟨receive, transmit, Settings.write_inRange settings index data, rest⟩

theorem Management.sound_staged {m : Management} (h : m.sound = true) (index : Nat) (data : List Byte) :
    ({ m with staged := m.staged.write index data } : Management).sound = true := by
  obtain ⟨receive, transmit, settings, frames, staged⟩ := m.sound_iff.1 h
  exact (Management.sound_iff _).2
    ⟨receive, transmit, settings, frames, StagedDescriptor.write_members_length staged index data⟩

/-! The array link. -/

theorem ArrayPort.outstanding_iff (p : ArrayPort) (tag : Nat) : p.outstanding tag = true ↔ ∃ r ∈ p.table, r.tag = tag := by
  simp [ArrayPort.outstanding, ArrayPort.request?]

theorem ArrayPort.outstanding_eq_false {p : ArrayPort} {tag : Nat} (free : p.outstanding tag = false) :
    ∀ r ∈ p.table, r.tag ≠ tag := fun r hr same =>
  Bool.false_ne_true (free.symm.trans ((p.outstanding_iff tag).2 ⟨r, hr, same⟩))

/-- A request under a free tag keeps the tags apart (R23). -/
theorem Bridge.enter_tags {b : Bridge} (h : b.sound) {r : Request} (valid : r.tag < Config.requestTags)
    (free : b.port.outstanding r.tag = false) :
    ((b.enter r).port.table.map Request.tag).Nodup ∧ ∀ x ∈ (b.enter r).port.table, x.tag < Config.requestTags := by
  obtain ⟨-, tags, range⟩ := h.1
  have table : (b.enter r).port.table = b.port.table ++ [r] := rfl
  rw [table, List.map_append, List.nodup_append]
  refine ⟨⟨tags, by simp, fun t ht u hu => ?_⟩, fun x hx => ?_⟩
  · obtain ⟨x, hx, rfl⟩ := List.mem_map.1 ht
    rw [show u = r.tag by simpa using hu]
    exact ArrayPort.outstanding_eq_false free x hx
  · rcases List.mem_append.1 hx with hx | hx
    · exact range x hx
    · exact List.mem_singleton.1 hx ▸ valid

/-- A READ or WRITE that is accepted, with the rest of its event (R27, R41). -/
theorem Bridge.accept_sound {b : Bridge} (h : b.sound) (cfg : Settings) {hd : Header}
    (valid : hd.tag.toNat < Config.requestTags) (free : b.port.outstanding hd.tag.toNat = false) (kind : RequestKind)
    (buffer : List Block) : (b.accept cfg hd kind buffer).sound := by
  obtain ⟨tags, range⟩ := Bridge.enter_tags (r := b.newRequest hd kind buffer) h valid free
  exact Bridge.settle_sound (Bridge.foregroundChanged_sound tags range h.2)

theorem Bridge.answer_sound {b : Bridge} (h : b.sound) (hd : Header) (status : Status) : (b.answer hd status).sound :=
  Bridge.sound_of_key (b.send_key _) h

theorem Bridge.readRest_sound {b : Bridge} (h : b.sound) (cfg : Settings) {hd : Header}
    (valid : hd.tag.toNat < Config.requestTags) (free : b.port.outstanding hd.tag.toNat = false) :
    (b.readRest cfg hd).sound := by
  unfold Bridge.readRest
  split
  · exact Bridge.answer_sound h _ _
  · exact Bridge.accept_sound h cfg valid free _ _

theorem Bridge.writeRest_sound {b : Bridge} (h : b.sound) (cfg : Settings) {hd : Header} (payload : Body)
    (valid : hd.tag.toNat < Config.requestTags) (free : b.port.outstanding hd.tag.toNat = false) :
    (b.writeRest cfg hd payload).sound := by
  unfold Bridge.writeRest
  split
  · exact Bridge.answer_sound h _ _
  · split
    · exact Bridge.answer_sound h _ _
    · exact Bridge.accept_sound h cfg valid free _ _

/-- A FLUSH that is accepted leaves F as it is (R41). -/
theorem Bridge.flushRest_sound {b : Bridge} (h : b.sound) {hd : Header} (valid : hd.tag.toNat < Config.requestTags)
    (free : b.port.outstanding hd.tag.toNat = false) : (b.flushRest hd).sound := by
  obtain ⟨tags, range⟩ := Bridge.enter_tags (r := b.newRequest hd .flush []) h valid free
  have count : foregroundCount (b.port.table ++ [b.newRequest hd .flush []]) = foregroundCount b.port.table := by
    simp [foregroundCount, Bridge.newRequest, RequestKind.counts]
  exact Bridge.testFlushes_sound ⟨⟨h.1.1.trans count.symm, tags, range⟩, h.2⟩

/-- A frame keeps the table sound when the rest of its handling does for a valid tag that is free. -/
theorem Bridge.takeFrame_sound {b : Bridge} (h : b.sound) (cfg : Settings) (kind : Byte) (hd : Header)
    {rest : Bridge → Bridge}
    (keeps : hd.tag.toNat < Config.requestTags → b.port.outstanding hd.tag.toNat = false → (rest b).sound) :
    (b.takeFrame cfg kind hd rest).sound := by
  have test : b.earlyTest cfg kind hd = .passed →
      hd.tag.toNat < Config.requestTags ∧ b.port.outstanding hd.tag.toNat = false := by
    unfold Bridge.earlyTest
    repeat' split
    all_goals simp_all
  unfold Bridge.takeFrame
  cases early : b.earlyTest cfg kind hd with
  | check | dupTag => exact Bridge.sound_of_key rfl h
  | busy | badTag => exact Bridge.answer_sound h _ _
  | passed => exact keeps (test early).1 (test early).2

/-! The shelf links. -/

@[simp] theorem Bridge.probeEnded_key (b : Bridge) (c : DriveCommand) (capacity : Option Nat) :
    (b.probeEnded c capacity).key = b.key := by
  unfold Bridge.probeEnded
  split <;> simp

@[simp] theorem Bridge.judgeAnswer_key (cfg : Settings) (b : Bridge) (port : Nat) (e : TagEntry) (answer : Answer)
    (blocks : List Block) : (b.judgeAnswer cfg port e answer blocks).key = b.key := by
  unfold Bridge.judgeAnswer
  cases answer with
  | good | noSlot => simp
  | media =>
    dsimp only
    split <;> simp

@[simp] theorem Bridge.answerTaken_key (cfg : Settings) (b : Bridge) (port : Nat) (e : TagEntry) (status : Byte)
    (body : Body) : (b.answerTaken cfg port e status body).key = b.key := by
  unfold Bridge.answerTaken
  dsimp only
  split
  · simp
  all_goals split <;> simp

@[simp] theorem Bridge.lastExpiry_key (b : Bridge) (port : Nat) (e : TagEntry) : (b.lastExpiry port e).key = b.key := by
  unfold Bridge.lastExpiry
  split
  · simp
  all_goals split <;> simp

theorem Bridge.driveAnswer_sound {b : Bridge} (h : b.sound) (cfg : Settings) (port : Nat) (tag slot status : Byte)
    (body : Body) : (b.driveAnswer cfg port tag slot status body).sound := by
  unfold Bridge.driveAnswer
  split
  · exact h
  · split
    · exact Bridge.settle_sound (Bridge.sound_of_key (Bridge.answerTaken_key ..) h)
    · exact h

theorem Bridge.timerExpires_sound {b : Bridge} (h : b.sound) (cfg : Settings) (port tag : Nat) :
    (b.timerExpires cfg port tag).sound := by
  unfold Bridge.timerExpires
  split
  · exact h
  · split
    · exact Bridge.sound_of_key (by simp [Bridge.reissue]) h
    · exact Bridge.settle_sound (Bridge.sound_of_key (Bridge.lastExpiry_key ..) h)

/-! The commands of the management line. -/

@[simp] theorem takeColumns_length (desc : Descriptor) (members : List Member) :
    (takeColumns desc members).length = members.length := List.length_mapIdx

@[simp] theorem takeTargetColumns_length (cur desc : Descriptor) (members : List Member) :
    (takeTargetColumns cur desc members).length = members.length := List.length_mapIdx

/-- A member table of the same length leaves the key. -/
theorem Bridge.withMembers_key (b : Bridge) {members : List Member} (same : members.length = b.members.length) :
    ({ b with members := members } : Bridge).key = b.key := by
  simp [Bridge.key, same]

theorem Bridge.create_key (b : Bridge) (d : StagedDescriptor) : (b.create d).2.key = b.key := by
  unfold Bridge.create
  split
  · rfl
  · split
    · rfl
    · simp [Bridge.withMembers_key]

theorem Bridge.start_key (b : Bridge) (d : StagedDescriptor) : (b.start d).2.key = b.key := by
  unfold Bridge.start
  split
  · rfl
  · split
    · simp [Bridge.withMembers_key]
    · rfl

theorem Bridge.pause_key (b : Bridge) : b.pause.2.key = b.key := by
  unfold Bridge.pause
  repeat' split
  all_goals rfl

theorem Bridge.resume_key (b : Bridge) : b.resume.2.key = b.key := by
  unfold Bridge.resume
  repeat' split
  all_goals rfl

/-- Slot marks that are taken away leave the key. -/
theorem Bridge.clearSlotMarks_key (b : Bridge) : ({ b with port := b.port.clearSlotMarks } : Bridge).key = b.key := by
  simp [Bridge.key, ArrayPort.clearSlotMarks, Function.comp_def]

theorem Bridge.cancel_key (b : Bridge) : b.cancel.2.key = b.key := by
  unfold Bridge.cancel
  split
  · exact (Bridge.startCheckpoint_key ..).trans ((Bridge.withdrawChunks_key _).trans (Bridge.clearSlotMarks_key _))
  · rfl

theorem Bridge.beginAdmit_key (b : Bridge) (members : List Nat) : (b.beginAdmit members).key = b.key :=
  (foldl_key _ (fun b _ => b.issueStep_key _ _) _ _).trans rfl

/-! Events: what they act on is sound, and the alert line follows. -/

/-- The management line, the request table and the shape of the part are sound: all but the alert line. -/
def State.innerSound (s : State) : Prop := s.mgmt.sound = true ∧ s.bridge.sound

theorem State.innerSound_of_sound {s : State} (h : s.sound) : s.innerSound := ⟨h.1, h.2.2.1, h.2.2.2⟩

theorem State.driveAlert_sound {s : State} (h : s.innerSound) : s.driveAlert.sound := ⟨h.1, rfl, h.2.1, h.2.2⟩

theorem State.onBridge_sound {s : State} (h : s.sound) {f : Bridge → Bridge} (keeps : ∀ b : Bridge, b.sound → (f b).sound) :
    (s.onBridge f).sound :=
  State.driveAlert_sound ⟨h.1, keeps _ ⟨h.2.2.1, h.2.2.2⟩⟩

theorem State.lineEvent_sound {s : State} (h : s.sound) {f : State → State}
    (keeps : ∀ s : State, s.innerSound → (f s).innerSound) : (s.lineEvent f).sound :=
  State.driveAlert_sound (keeps _ ⟨h.1, h.2.2.1, h.2.2.2⟩)

theorem State.ackBytes_innerSound {s : State} (h : s.innerSound) (a : Bool) (n : Nat) : (s.ackBytes a n).innerSound :=
  ⟨h.1, Bridge.sound_of_key (s.bridge.send_key _) h.2⟩

theorem State.onMgmt_innerSound {s : State} (h : s.innerSound) {f : Management → Management}
    (keeps : (f s.mgmt).sound = true) : (s.onMgmt f).innerSound := ⟨keeps, h.2⟩

theorem State.idle_innerSound {s : State} (h : s.innerSound) : (s.onMgmt (fun m => { m with line := .idle })).innerSound :=
  State.onMgmt_innerSound h (Management.sound_idle h.1)

theorem State.withBridge_innerSound {s : State} (h : s.innerSound) {b : Bridge} (same : b.key = s.bridge.key) :
    ({ s with bridge := b } : State).innerSound := ⟨h.1, Bridge.sound_of_key same h.2⟩

/-! Each line event. -/

theorem State.recordResult_innerSound {s : State} (h : s.innerSound) (code : Nat) (result : CommandResult) {b : Bridge}
    (same : b.key = s.bridge.key) : (s.recordResult code result b).innerSound := by
  have recorded : ({ b with command := b.command.ended code result } : Bridge).sound := Bridge.sound_of_key same h.2
  unfold State.recordResult
  dsimp only
  split
  · exact ⟨h.1, Bridge.settle_sound recorded⟩
  · exact ⟨h.1, recorded⟩

theorem State.gatedCommand_innerSound {s : State} (h : s.innerSound) (code : Nat) {act : Bridge → CommandResult × Bridge}
    (same : (act s.bridge).2.key = s.bridge.key) : (s.gatedCommand code act).innerSound := by
  unfold State.gatedCommand
  split
  · exact State.recordResult_innerSound h _ _ rfl
  · split
    · exact State.recordResult_innerSound h _ _ rfl
    · exact State.recordResult_innerSound h _ _ same

theorem State.takeAdmit_innerSound {s : State} (h : s.innerSound) (mask : List Byte) : (s.takeAdmit mask).innerSound := by
  unfold State.takeAdmit
  split
  · exact State.recordResult_innerSound h _ _ rfl
  · split
    · exact State.recordResult_innerSound h _ _ rfl
    · split
      · exact State.withBridge_innerSound h rfl
      · exact ⟨h.1, Bridge.settle_sound (Bridge.sound_of_key (Bridge.beginAdmit_key _ _) h.2)⟩

theorem State.plainCommand_innerSound {s : State} (h : s.innerSound) (code : Nat) {act : Bridge → Bridge}
    (same : (act s.bridge).key = s.bridge.key) : (s.plainCommand code act).innerSound := by
  unfold State.plainCommand
  split
  · exact State.recordResult_innerSound h _ _ rfl
  · exact State.withBridge_innerSound h same

/-- Settles O60: every table of the reset state is empty, and every setting at its default. -/
theorem resetSound : Obligations.ResetSound := by
  refine ⟨by decide, rfl, ⟨rfl, List.nodup_nil, fun r hr => absurd hr List.not_mem_nil⟩, rfl, rfl⟩

theorem State.restarted_innerSound (s : State) : s.restarted.innerSound :=
  ⟨resetSound.1, resetSound.2.2⟩

theorem State.applyFrame_innerSound {s : State} (h : s.innerSound) (f : WriteFrame) : (s.applyFrame f).innerSound := by
  unfold State.applyFrame
  cases f.row with
  | settings => exact State.onMgmt_innerSound h (Management.sound_settings h.1 _ _)
  | staged => exact State.onMgmt_innerSound h (Management.sound_staged h.1 _ _)
  | create => exact State.gatedCommand_innerSound h _ (Bridge.create_key _ _)
  | admitMembers => exact State.takeAdmit_innerSound h _
  | start => exact State.gatedCommand_innerSound h _ (Bridge.start_key _ _)
  | pause => exact State.gatedCommand_innerSound h _ (Bridge.pause_key _)
  | resume => exact State.gatedCommand_innerSound h _ (Bridge.resume_key _)
  | cancel => exact State.gatedCommand_innerSound h _ (Bridge.cancel_key _)
  | ack | clearCapture => exact State.plainCommand_innerSound h _ rfl
  | restart =>
    dsimp only
    split
    · exact State.recordResult_innerSound h _ _ rfl
    · exact s.restarted_innerSound
  | discarded => exact State.onMgmt_innerSound h h.1

theorem State.processOldest_innerSound {s : State} (h : s.innerSound) : s.processOldest.innerSound := by
  unfold State.processOldest
  split
  · exact h
  · rename_i waiting
    have taken := State.onMgmt_innerSound (f := fun m => { m with waiting := _ }) h (Management.sound_processed h.1 waiting)
    exact State.applyFrame_innerSound taken _

theorem State.processAs_sound {s : State} (h : s.sound) (row : FrameRow) : (s.processAs row).sound :=
  State.lineEvent_sound h fun s hs => by
    split
    · exact State.processOldest_innerSound hs
    · exact hs

theorem State.drain_innerSound (count : Nat) {s : State} (h : s.innerSound) : (s.drain count).innerSound := by
  induction count generalizing s with
  | zero => exact h
  | succ count ih => exact ih (State.processOldest_innerSound h)

theorem State.completeRequest_innerSound {s : State} (h : s.innerSound) (control high low : Byte) :
    (s.completeRequest control high low).innerSound := by
  unfold State.completeRequest State.fillReply
  have drained := State.drain_innerSound (s.ackBytes true 2).mgmt.waiting.length (State.ackBytes_innerSound h true 2)
  dsimp only
  split
  · rename_i taking
    exact State.onMgmt_innerSound drained (Management.sound_reply drained.1 (by simpa using taking) _)
  · exact drained

theorem State.endFrame_innerSound {s : State} (h : s.innerSound) (filling : s.mgmt.line = .filling) (bytes : List Byte) :
    (s.endFrame bytes).innerSound := by
  have idle := State.idle_innerSound h
  unfold State.endFrame
  cases bytes with
  | nil => exact idle
  | cons c rest =>
    dsimp only
    split
    · exact idle
    · split
      · have counted := State.onMgmt_innerSound (f := fun m => { m with frameErrors := m.frameErrors + 1 }) idle idle.1
        exact State.ackBytes_innerSound counted _ _
      · rename_i long
        have stored : ({ bytes := (c :: rest).take Config.bufferBytes
                         overlong := Config.bufferBytes < (c :: rest).length } : WriteFrame).stored := by
          simp only [WriteFrame.stored, List.length_take, List.length_cons, Config.bufferBytes]
          omega
        have complete := State.onMgmt_innerSound (f := fun m => { m with waiting := m.waiting ++ [_] }) idle
          (Management.sound_frame h.1 filling stored)
        exact State.ackBytes_innerSound complete _ _

theorem State.addressByte_innerSound {s : State} (h : s.innerSound) (address : Byte) :
    (let s := s.onMgmt (fun m => { m with line := .idle })
      if address == 0x58 && s.mgmt.hasRoom then (s.onMgmt (fun m => { m with line := .filling })).ackBytes true 1
      else if address == 0x59 && !s.mgmt.replies.isEmpty then s.ackBytes true 1
      else s.ackBytes false 1).innerSound := by
  have idle := State.idle_innerSound h
  dsimp only
  split
  · rename_i taken
    have room : s.mgmt.waiting.length < Config.receiveBuffers := of_decide_eq_true (Bool.and_eq_true_iff.1 taken).2
    have filling := State.onMgmt_innerSound (f := fun m => { m with line := .filling }) idle
      (Management.sound_filling idle.1 room)
    exact State.ackBytes_innerSound filling _ _
  · split
    all_goals exact State.ackBytes_innerSound idle _ _

theorem State.controlByte_innerSound {s : State} (h : s.innerSound) (control : Byte) :
    (if s.mgmt.line == .filling && !controlWrite control then
      if s.mgmt.replies.length < Config.transmitBuffers then
        (s.onMgmt (fun m => { m with line := .readControl control })).ackBytes true 1
      else (s.onMgmt (fun m => { m with line := .idle })).ackBytes false 1
    else s.ackBytes false 1).innerSound := by
  split
  · split
    · rename_i room
      have taken := State.onMgmt_innerSound (f := fun m => { m with line := .readControl control }) h
        (Management.sound_readControl h.1 room control)
      exact State.ackBytes_innerSound taken _ _
    · exact State.ackBytes_innerSound (State.idle_innerSound h) _ _
  · exact State.ackBytes_innerSound h _ _

theorem State.fetchReply_innerSound {s : State} (h : s.innerSound) (clocked : Nat) : (s.fetchReply clocked).innerSound := by
  unfold State.fetchReply
  split
  · exact State.ackBytes_innerSound h _ _
  · rename_i rest replies
    have fetched : (s.onMgmt (fun m => { m with replies := rest })).innerSound :=
      State.onMgmt_innerSound h (Management.sound_fetched h.1 replies)
    exact State.withBridge_innerSound (State.ackBytes_innerSound fetched true 1) (Bridge.send_key _ _)

/-! The statement. -/

/-- What a command that answers a next state leaves, when all that its arm answers is sound. -/
theorem sound_of_next {s t : State} (h : s.sound) (ht : (.next s : Host.Outcome State Fault Refusal) = .next t) : t.sound :=
  Host.Outcome.next.inj ht ▸ h

/-- Every command keeps the part sound, by what it acts on: the bridge, the line, or a waiting frame. -/
theorem exec_sound {s t : State} (h : s.sound) (i : Instr) (ht : exec i s = .next t) : t.sound := by
  cases i with
  | reset => exact sound_of_next (State.lineEvent_sound h fun s _ => s.restarted_innerSound) ht
  | read hd =>
    exact sound_of_next
      (State.onBridge_sound h fun b hb => Bridge.takeFrame_sound hb _ _ _ (Bridge.readRest_sound hb _)) ht
  | write hd payload =>
    exact sound_of_next
      (State.onBridge_sound h fun b hb => Bridge.takeFrame_sound hb _ _ _ (Bridge.writeRest_sound hb _ payload)) ht
  | flush hd =>
    exact sound_of_next (State.onBridge_sound h fun b hb => Bridge.takeFrame_sound hb _ _ _ (Bridge.flushRest_sound hb)) ht
  | capacity hd =>
    exact sound_of_next
      (State.onBridge_sound h fun b hb =>
        Bridge.takeFrame_sound hb _ _ hd fun _ _ => Bridge.sound_of_key (b.send_key _) hb) ht
  | unknownKind kind hd =>
    exact sound_of_next
      (State.onBridge_sound h fun b hb => Bridge.takeFrame_sound hb _ _ _ fun _ _ => Bridge.answer_sound hb hd _) ht
  | driveCompletion port tag slot status body =>
    exact sound_of_next (State.onBridge_sound h fun b hb => Bridge.driveAnswer_sound hb _ _ _ _ _ _) ht
  | commandTimerExpiry port tag =>
    exact sound_of_next (State.onBridge_sound h fun b hb => Bridge.timerExpires_sound hb _ _ _) ht
  | starvationTimerRunOut port =>
    exact sound_of_next (State.onBridge_sound h fun b hb => Bridge.sound_of_key (b.onShelf_key _ _) hb) ht
  | writeFrame bytes =>
    refine sound_of_next (State.lineEvent_sound h fun s hs => ?_) ht
    split
    · rename_i filling
      exact State.endFrame_innerSound hs (by simpa using filling) bytes
    · exact State.ackBytes_innerSound hs _ _
  | readRequest high low =>
    refine sound_of_next (State.lineEvent_sound h fun s hs => ?_) ht
    split
    · exact State.completeRequest_innerSound hs _ _ _
    all_goals exact State.ackBytes_innerSound hs _ _
  | replyFetch clocked =>
    exact sound_of_next
      (State.lineEvent_sound h fun s hs =>
        State.fetchReply_innerSound (State.idle_innerSound hs) clocked) ht
  | lineAddressByte address =>
    exact sound_of_next (State.lineEvent_sound h fun s hs => State.addressByte_innerSound hs address) ht
  | readRequestControlByte control =>
    exact sound_of_next (State.lineEvent_sound h fun s hs => State.controlByte_innerSound hs control) ht
  | _ => exact sound_of_next (State.processAs_sound h _) ht

/-- Settles O59: a step idles, or is the effect of a command on a state that is sound as well. -/
theorem stepKeepsSound : Obligations.StepKeepsSound := by
  intro s t h ht
  unfold step at ht
  split at ht
  · exact sound_of_next h ht
  · rename_i i rest _
    have h : State.sound { s with pending := rest } := h
    exact exec_sound h i ht

end Sys2Proof.Machine
end

section
/-! PROOFS. The placement of chunks and its reversal (R6 to R8), and the pieces of a request (R11). -/

namespace Sys2Proof.Machine

open Sys2Proof

/-! The columns of a row: those after the parity column, around the row, are its data positions in order. -/

theorem positionOf_lt {n : Nat} (hn : 2 ≤ n) (d : Nat) : positionOf n d < n - 1 := Nat.mod_lt _ (by omega)

theorem parityColumn_lt {n : Nat} (hn : 1 ≤ n) (r : Nat) : parityColumn n r < n := Nat.mod_lt _ hn

theorem dataColumn_lt {n : Nat} (hn : 1 ≤ n) (r p : Nat) : dataColumn n r p < n := Nat.mod_lt _ hn

/-- The data column of a position, with the wrap around the row written out. -/
theorem dataColumn_eq {n r p : Nat} (hp : p < n - 1) :
    dataColumn n r p =
      if parityColumn n r + 1 + p < n then parityColumn n r + 1 + p else parityColumn n r + 1 + p - n := by
  have hq : parityColumn n r < n := parityColumn_lt (by omega) r
  unfold dataColumn
  split
  · rename_i below
    exact Nat.mod_eq_of_lt below
  · rw [Nat.mod_eq_sub_mod (by omega), Nat.mod_eq_of_lt (by omega)]

theorem dataColumn_ne_parityColumn {n r p : Nat} (hp : p < n - 1) : dataColumn n r p ≠ parityColumn n r := by
  rw [dataColumn_eq hp]
  split <;> omega

/-- R8 takes the data column of a position back to the position. -/
theorem positionOfColumn_dataColumn {n r p : Nat} (hp : p < n - 1) : positionOfColumn n r (dataColumn n r p) = p := by
  have hq : parityColumn n r < n := parityColumn_lt (by omega) r
  rw [positionOfColumn, dataColumn_eq hp]
  split
  · have around : parityColumn n r + 1 + p + n - parityColumn n r - 1 = p + n := by omega
    rw [around, Nat.add_mod_right, Nat.mod_eq_of_lt (by omega)]
  · have straight : parityColumn n r + 1 + p - n + n - parityColumn n r - 1 = p := by omega
    rw [straight, Nat.mod_eq_of_lt (by omega)]

/-! The blocks of a chunk: a multiple of the chunk size, and an offset below it. -/

theorem mul_add_div_of_lt {c o : Nat} (ho : o < c) (k : Nat) : (k * c + o) / c = k := by
  rw [Nat.mul_comm, Nat.mul_add_div (by omega), Nat.div_eq_of_lt ho, Nat.add_zero]

theorem mul_add_mod_of_lt {c o : Nat} (ho : o < c) (k : Nat) : (k * c + o) % c = o := by
  rw [Nat.mul_comm, Nat.mul_add_mod, Nat.mod_eq_of_lt ho]

theorem memberBlock_sub (c r o : Nat) : memberBlock c r o - Config.firstDataBlock = r * c + o := by
  unfold memberBlock
  omega

/-- Settles O4: the formulas are those of the model, and each reversal is one of the division with remainder. -/
theorem placementInverts : Obligations.PlacementInverts := by
  refine ⟨fun n c d r p column o => ⟨rfl, rfl, rfl, rfl, rfl, rfl⟩, fun _ _ _ _ _ => rfl, fun n c d o hn _ ho => ?_⟩
  have hp : positionOf n d < n - 1 := positionOf_lt (by omega) d
  refine ⟨hp, dataColumn_lt (by omega) _ _, dataColumn_ne_parityColumn hp, positionOfColumn_dataColumn hp,
    Nat.div_add_mod' d (n - 1), ?row, ?offset, mul_add_div_of_lt ho d, mul_add_mod_of_lt ho d⟩
  case row => rw [rowOfBlock, memberBlock_sub, mul_add_div_of_lt ho]
  case offset => rw [offsetOfBlock, memberBlock_sub, mul_add_mod_of_lt ho]

/-! The pieces of a request (R11). -/

/-- Where piece `j` of a request begins, and so where piece `j - 1` ends: at its chunk, but not outside the request. -/
def pieceEdge (c lba count j : Nat) : Nat := min (lba + count) (max lba ((lba / c + j) * c))

section
variable {c lba count : Nat}

theorem pieceEdge_mono (c lba count : Nat) : Monotone (pieceEdge c lba count) := fun i j h =>
  have chunk : (lba / c + i) * c ≤ (lba / c + j) * c := Nat.mul_le_mul_right c (by omega)
  min_le_min_left _ (max_le_max_left _ chunk)

theorem pieceEdge_zero (c lba count : Nat) : pieceEdge c lba count 0 = lba := by
  have first : (lba / c + 0) * c ≤ lba := Nat.div_mul_le_self lba c
  unfold pieceEdge
  omega

/-- The first LBA of a piece's chunk lies within the request, and that of the chunk behind it past the request's LBA. -/
theorem pieceChunk_bounds (hc : 1 ≤ c) (hcount : 1 ≤ count) {j : Nat} (hj : j < pieceCount c lba count) :
    (lba / c + j) * c < lba + count ∧ lba < (lba / c + j + 1) * c := by
  have low : lba / c ≤ (lba + count - 1) / c := Nat.div_le_div_right (by omega)
  have last : lba / c + j ≤ (lba + count - 1) / c := by
    unfold pieceCount at hj
    omega
  have within := (Nat.le_div_iff_mul_le (by omega)).1 last
  have past : lba < (lba / c + 1) * c := Nat.lt_mul_of_div_lt (Nat.lt_succ_self _) (by omega)
  have grows : (lba / c + 1) * c ≤ (lba / c + j + 1) * c := Nat.mul_le_mul_right c (by omega)
  omega

theorem pieceEdge_pieceCount (hc : 1 ≤ c) (hcount : 1 ≤ count) :
    pieceEdge c lba count (pieceCount c lba count) = lba + count := by
  have low : lba / c ≤ (lba + count - 1) / c := Nat.div_le_div_right (by omega)
  have behind : lba / c + pieceCount c lba count = (lba + count - 1) / c + 1 := by
    unfold pieceCount
    omega
  have past : lba + count - 1 < ((lba + count - 1) / c + 1) * c :=
    Nat.lt_mul_of_div_lt (Nat.lt_succ_self _) (by omega)
  unfold pieceEdge
  rw [behind]
  omega

/-- A piece reaches from its edge to the next one, which lies in its chunk or at its end. -/
theorem pieceOf_edges (hc : 1 ≤ c) (hcount : 1 ≤ count) (dir : Direction) {j : Nat} (hj : j < pieceCount c lba count) :
    (pieceOf c dir lba count j).lba = pieceEdge c lba count j
      ∧ (pieceOf c dir lba count j).count = pieceEdge c lba count (j + 1) - pieceEdge c lba count j
      ∧ pieceEdge c lba count j < pieceEdge c lba count (j + 1)
      ∧ (lba / c + j) * c ≤ pieceEdge c lba count j ∧ pieceEdge c lba count (j + 1) ≤ (lba / c + j + 1) * c := by
  obtain ⟨within, past⟩ := pieceChunk_bounds hc hcount hj
  have next : (lba / c + j + 1) * c = (lba / c + j) * c + c := Nat.succ_mul _ _
  have first : (pieceOf c dir lba count j).lba = max lba ((lba / c + j) * c) := rfl
  have length : (pieceOf c dir lba count j).count
      = min (lba + count) ((lba / c + j + 1) * c) - max lba ((lba / c + j) * c) := rfl
  have edge : pieceEdge c lba count (j + 1) = min (lba + count) (max lba ((lba / c + j + 1) * c)) := rfl
  rw [first, length, edge]
  unfold pieceEdge
  omega

theorem splitRequest_length (c lba count : Nat) (dir : Direction) :
    (splitRequest c dir lba count).length = pieceCount c lba count := by
  simp [splitRequest]

theorem splitRequest_getElem? {dir : Direction} {j : Nat} {p : Piece} :
    (splitRequest c dir lba count)[j]? = some p ↔ j < pieceCount c lba count ∧ pieceOf c dir lba count j = p := by
  simp only [splitRequest, List.getElem?_map, Option.map_eq_some_iff, List.getElem?_eq_some_iff,
    List.length_range, List.getElem_range]
  constructor
  · rintro ⟨_, ⟨hj, rfl⟩, rfl⟩
    exact ⟨hj, rfl⟩
  · rintro ⟨hj, rfl⟩
    exact ⟨j, ⟨hj, rfl⟩, rfl⟩

/-- The counts of the pieces are the distances from edge to edge, so they sum to the request's count. -/
theorem splitRequest_counts_sum (hc : 1 ≤ c) (hcount : 1 ≤ count) (dir : Direction) :
    ((splitRequest c dir lba count).map Piece.count).sum = count := by
  have each : (splitRequest c dir lba count).map Piece.count
      = (List.range (pieceCount c lba count)).map (fun j => pieceEdge c lba count (j + 1) - pieceEdge c lba count j) := by
    rw [splitRequest, List.map_map]
    exact List.map_congr_left fun j hj => (pieceOf_edges hc hcount dir (List.mem_range.1 hj)).2.1
  calc ((splitRequest c dir lba count).map Piece.count).sum
      = ∑ j ∈ Finset.range (pieceCount c lba count), (pieceEdge c lba count (j + 1) - pieceEdge c lba count j) :=
        congrArg List.sum each
    _ = pieceEdge c lba count (pieceCount c lba count) - pieceEdge c lba count 0 :=
        Finset.sum_range_tsub (pieceEdge_mono c lba count) _
    _ = count := by rw [pieceEdge_pieceCount hc hcount, pieceEdge_zero, Nat.add_sub_cancel_left]

end

/-- Settles O5, from the edges of the pieces: each piece reaches from its edge to the next. -/
theorem splitCoversRequest : Obligations.SplitCoversRequest := by
  intro c lba count dir hc hcount
  refine ⟨splitRequest_length c lba count dir, splitRequest_counts_sum hc hcount dir, ?first, fun j p hp => ?each,
    fun j p q hp hq => ?next⟩
  case first =>
    have some : (splitRequest c dir lba count)[0]? = some (pieceOf c dir lba count 0) :=
      splitRequest_getElem?.2 ⟨Nat.succ_pos _, rfl⟩
    rw [List.head?_eq_getElem?, some, Option.map_some, (pieceOf_edges hc hcount dir (Nat.succ_pos _)).1, pieceEdge_zero]
  case each =>
    obtain ⟨hj, rfl⟩ := splitRequest_getElem?.1 hp
    obtain ⟨lba_eq, count_eq, grows, low, high⟩ := pieceOf_edges hc hcount dir hj
    have next : (lba / c + j + 1) * c = (lba / c + j) * c + c := Nat.succ_mul _ _
    refine ⟨rfl, rfl, rfl, rfl, ?_⟩
    rw [lba_eq, count_eq, show (pieceOf c dir lba count j).chunk = lba / c + j from rfl]
    omega
  case next =>
    obtain ⟨hj, rfl⟩ := splitRequest_getElem?.1 hp
    obtain ⟨hj', rfl⟩ := splitRequest_getElem?.1 hq
    obtain ⟨lba_eq, count_eq, grows, -⟩ := pieceOf_edges hc hcount dir hj
    rw [(pieceOf_edges hc hcount dir hj').1, lba_eq, count_eq]
    omega

end Sys2Proof.Machine
end

section
/-! PROOFS. The parity relations (R16, R17): runs of blocks under XOR commute and associate, a run is its own inverse, and
the XOR of several runs does not depend on their order. -/

namespace Sys2Proof.Machine

open Sys2Proof

/-! Runs of blocks under XOR. -/

theorem xorBlocks_assoc (a b c : List Block) : xorBlocks (xorBlocks a b) c = xorBlocks a (xorBlocks b c) := by
  induction a generalizing b c with
  | nil => simp [xorBlocks]
  | cons x a ih =>
    cases b with
    | nil => simp [xorBlocks]
    | cons y b =>
      cases c with
      | nil => simp [xorBlocks]
      | cons z c => exact congrArg₂ List.cons (BitVec.xor_assoc x y z) (ih b c)

theorem xorBlocks_right_comm (a b c : List Block) : xorBlocks (xorBlocks a b) c = xorBlocks (xorBlocks a c) b := by
  rw [xorBlocks_assoc, xorBlocks_comm b c, ← xorBlocks_assoc]

theorem xorBlocks_zeroBlocks {a : List Block} {n : Nat} (h : a.length = n) : xorBlocks a (zeroBlocks n) = a := by
  subst h
  induction a with
  | nil => rfl
  | cons x a ih => exact congrArg₂ List.cons BitVec.xor_zero ih

theorem xorBlocks_self {a : List Block} {n : Nat} (h : a.length = n) : xorBlocks a a = zeroBlocks n := by
  subst h
  induction a with
  | nil => rfl
  | cons x a ih => exact congrArg₂ List.cons BitVec.xor_self ih

/-- A run taken away again by the same run. -/
theorem xorBlocks_cancel {a b : List Block} {n : Nat} (ha : a.length = n) (hb : b.length = n) :
    xorBlocks (xorBlocks a b) b = a := by
  rw [xorBlocks_assoc, xorBlocks_self hb, xorBlocks_zeroBlocks ha]

/-! The XOR of several runs. -/

theorem xorAll_cons (n : Nat) (run : List Block) (runs : List (List Block)) :
    xorAll n (run :: runs) = xorBlocks run (xorAll n runs) := by
  have assoc : Std.Associative xorBlocks := ⟨xorBlocks_assoc⟩
  unfold xorAll
  rw [List.foldl_cons, xorBlocks_comm, List.foldl_assoc]

theorem xorAll_length {n : Nat} {runs : List (List Block)} (h : ∀ r ∈ runs, r.length = n) :
    (xorAll n runs).length = n := by
  induction runs with
  | nil => exact List.length_replicate
  | cons r runs ih =>
    rw [xorAll_cons, xorBlocks_length, h r List.mem_cons_self, ih fun x hx => h x (List.mem_cons_of_mem r hx), min_self]

theorem xorAll_perm (n : Nat) {runs runs' : List (List Block)} (h : runs.Perm runs') : xorAll n runs = xorAll n runs' :=
  have _comm : RightCommutative xorBlocks := ⟨xorBlocks_right_comm⟩
  h.foldl_eq _

/-- Old data goes out of the parity and new data comes in. -/
theorem xorAll_replace {n : Nat} {old new : List Block} {others : List (List Block)} (hold : old.length = n)
    (hothers : ∀ r ∈ others, r.length = n) :
    xorBlocks (xorBlocks (xorAll n (old :: others)) old) new = xorAll n (new :: others) := by
  rw [xorAll_cons, xorAll_cons, xorBlocks_comm old, xorBlocks_cancel (xorAll_length hothers) hold, xorBlocks_comm]

/-- A run is the XOR of the others and of the XOR of all. -/
theorem xorAll_missing {n i : Nat} {runs : List (List Block)} {missing : List Block} (h : ∀ r ∈ runs, r.length = n)
    (hi : runs[i]? = some missing) : xorAll n (xorAll n runs :: runs.eraseIdx i) = missing := by
  obtain ⟨hlt, rfl⟩ := List.getElem?_eq_some_iff.1 hi
  have all : xorAll n runs = xorBlocks runs[i] (xorAll n (runs.eraseIdx i)) := by
    rw [← xorAll_cons]
    exact (xorAll_perm n (List.getElem_cons_eraseIdx_perm hlt)).symm
  have rest : ∀ r ∈ runs.eraseIdx i, r.length = n := fun r hr => h r (List.mem_of_mem_eraseIdx hr)
  rw [xorAll_cons, all, xorBlocks_cancel (h _ (List.getElem_mem hlt)) (xorAll_length rest)]

/-! What a write step lays down, and what its read step leaves (R52, R123, R125). -/

theorem Bridge.newParity_old {b : Bridge} {s : Service} {data parity : List Block} (h : s.kept = .old data parity) :
    b.newParity s = xorBlocks (xorBlocks parity data) (b.newData s) := by
  simp [Bridge.newParity, h]

theorem Bridge.newParity_peers {b : Bridge} {s : Service} {sum : List Block} (h : s.kept = .peers sum) :
    b.newParity s = xorBlocks (b.newData s) sum := by
  simp [Bridge.newParity, h]

theorem Bridge.pieceData_eq {b : Bridge} {tag index : Nat} {r : Request} {p : Piece} (hr : b.port.request? tag = some r)
    (hp : b.piece? tag index = some p) : b.pieceData tag index = (r.buffer.drop (p.lba - r.lba)).take p.count := by
  simp [Bridge.pieceData, hr, hp]

theorem Bridge.newData_piece {b : Bridge} {s : Service} {tag index : Nat} (h : s.work = .piece tag index) :
    b.newData s = b.pieceData tag index := by
  simp [Bridge.newData, h]

theorem Service.afterReadOld_good {s : Service} {data parity : List Block} (hown : s.ended .own = some (.good data))
    (hparity : s.ended .parity = some (.good parity)) :
    s.afterReadOld = { s with unreadable := false, kept := .old data parity } := by
  simp only [Service.afterReadOld, hown, hparity]

/-- A read of the old data or parity that is not DGOOD leaves no results, and DMEDIA marks the service. -/
theorem Service.afterReadOld_bad {s : Service}
    (h : (∀ data, s.ended .own ≠ some (.good data)) ∨ ∀ parity, s.ended .parity ≠ some (.good parity)) :
    s.afterReadOld =
      { s with
        unreadable := s.unreadable || s.ended .own == some .media || s.ended .parity == some .media, kept := .nothing } := by
  unfold Service.afterReadOld
  split
  · rename_i data parity hown hparity
    exact (h.elim (absurd hown <| · data) (absurd hparity <| · parity))
  · rfl

@[simp] theorem Ending.isGood_good (blocks : List Block) : (Ending.good blocks).isGood = true := rfl

theorem Ending.isGood_iff (e : Ending) : e.isGood = true ↔ ∃ blocks, e = .good blocks := by
  cases e <;> simp [Ending.isGood, Ending.blocks?]

/-- A step whose reads all ended DGOOD has read the runs of its results. -/
theorem Service.allGood_of_runs {s : Service} {runs : List (List Block)}
    (h : s.results.map Prod.snd = runs.map Ending.good) : s.allGood = true ∧ s.sum = xorAll s.place.count runs := by
  have endings : ∀ x ∈ s.results, x.2.isGood = true := fun x hx => by
    have run : x.2 ∈ runs.map Ending.good := h ▸ List.mem_map_of_mem hx
    obtain ⟨blocks, -, same⟩ := List.mem_map.1 run
    exact (Ending.isGood_iff x.2).2 ⟨blocks, same.symm⟩
  have read : s.results.map (fun r => (r.2.blocks?).getD []) = runs :=
    calc s.results.map (fun r => (r.2.blocks?).getD [])
        = (s.results.map Prod.snd).map (fun e => (e.blocks?).getD []) := by rw [List.map_map]; rfl
      _ = runs := by rw [h, List.map_map]; exact List.map_id' runs
  exact ⟨List.all_eq_true.2 endings, congrArg _ read⟩

theorem Service.allGood_eq_false {s : Service} (h : ∃ x ∈ s.results, ∀ blocks, x.2 ≠ .good blocks) :
    s.allGood = false := by
  obtain ⟨x, hx, bad⟩ := h
  refine List.all_eq_false.2 ⟨x, hx, fun good => ?_⟩
  obtain ⟨blocks, same⟩ := (Ending.isGood_iff x.2).1 good
  exact bad blocks same

theorem Service.afterReadPeers_good {s : Service} {runs : List (List Block)}
    (h : s.results.map Prod.snd = runs.map Ending.good) :
    s.afterReadPeers = { s with kept := .peers (xorAll s.place.count runs) } := by
  obtain ⟨all, sum⟩ := Service.allGood_of_runs h
  simp only [Service.afterReadPeers, all, sum, if_true]

theorem Service.afterReadPeers_bad {s : Service} (h : ∃ x ∈ s.results, ∀ blocks, x.2 ≠ .good blocks) :
    s.afterReadPeers = { s with kept := .nothing } := by
  simp [Service.afterReadPeers, Service.allGood_eq_false h]

/-- Settles O8: the relations by cancelling a run, and the steps by the two cases of what their reads leave. -/
theorem parityRelations : Obligations.ParityRelations := by
  refine ⟨fun n old new others hold _ hothers => xorAll_replace hold hothers,
    fun n runs i missing h hi => xorAll_missing h hi, fun n new others _ _ => (xorAll_cons n new others).symm,
    fun b s => ⟨fun _ _ => Bridge.newParity_old, fun _ => Bridge.newParity_peers, fun tag index r p hw hr hp => ?_⟩,
    fun s => ⟨fun _ _ => Service.afterReadOld_good, fun h => ?_, fun _ => Service.afterReadPeers_good,
      Service.afterReadPeers_bad⟩⟩
  · rw [Bridge.newData_piece hw, Bridge.pieceData_eq hr hp]
  · rw [Service.afterReadOld_bad h]
    simp [or_assoc]

end Sys2Proof.Machine
end

section
/-! PROOFS. The check word of a block (R97), and the layout record read back from its bytes (R96, R199): every field of a record
is a slice of the record's head, and the head is all of the record block but its check word. -/

namespace Sys2Proof.Machine

open Sys2Proof

/-! A block whose last word is free, with its check word written there. -/

/-- A block with a word written over its last one, which is 0. -/
def withLastWord (b : Block) (w : BitVec 32) : Block := b ||| (w.setWidth 32768 <<< (32 * 1023))

/-- The bits below the last word stand. -/
theorem withLastWord_extract (b : Block) (w : BitVec 32) {start width : Nat} (h : start + width ≤ 32 * 1023) :
    (withLastWord b w).extractLsb' start width = b.extractLsb' start width := by
  refine BitVec.eq_of_getLsbD_eq fun i hi => ?_
  have below : start + i < 32 * 1023 := by omega
  simp only [withLastWord, BitVec.getLsbD_extractLsb', BitVec.getLsbD_or, BitVec.getLsbD_shiftLeft, below, decide_true,
    Bool.not_true, Bool.and_false, Bool.false_and, Bool.or_false]

theorem wordAt_withLastWord (b : Block) (w : BitVec 32) {i : Nat} (h : i < 1023) :
    wordAt (withLastWord b w) i = wordAt b i := withLastWord_extract b w (by omega)

theorem wordAt_withLastWord_last {b : Block} (free : wordAt b 1023 = 0) (w : BitVec 32) :
    wordAt (withLastWord b w) 1023 = w := by
  refine BitVec.eq_of_getLsbD_eq fun i hi => ?_
  have zero : b.getLsbD (32 * 1023 + i) = false := by
    have bit := congrArg (fun v => v.getLsbD i) free
    simpa [wordAt, BitVec.getLsbD_extractLsb', hi] using bit
  have inside : 32 * 1023 + i < 32768 := by omega
  have above : ¬32 * 1023 + i < 32 * 1023 := by omega
  have back : 32 * 1023 + i - 32 * 1023 = i := by omega
  have small : i < 32768 := by omega
  simp only [wordAt, withLastWord, BitVec.getLsbD_extractLsb', BitVec.getLsbD_or, BitVec.getLsbD_shiftLeft, hi, zero,
    inside, above, back, BitVec.getLsbD_setWidth, small, decide_true, decide_false, Bool.not_false, Bool.true_and,
    Bool.false_or]

theorem sumWords_withLastWord (b : Block) (w : BitVec 32) {n : Nat} (h : n ≤ 1023) :
    sumWords (withLastWord b w) n = sumWords b n := by
  induction n with
  | zero => rfl
  | succ n ih => rw [sumWords, sumWords, ih (by omega), wordAt_withLastWord b w (by omega)]

/-- A last word that is what the words before it lack makes the sum 0. -/
theorem sumWords_eq_zero {b : Block} {n : Nat} {sum : BitVec 32} (before : sumWords b n = sum)
    (last : wordAt b n = 0 - sum) : sumWords b (n + 1) = 0 := by
  rw [sumWords, before, last]
  simp

/-- The check word makes the sum of all words 0 (R97). -/
theorem sumWords_checkWord {b : Block} (free : wordAt b 1023 = 0) :
    sumWords (withLastWord b (checkWord b)) 1024 = 0 :=
  sumWords_eq_zero (sumWords_withLastWord b _ le_rfl) (wordAt_withLastWord_last free _)

/-- Settles O9: the worked bytes by evaluation, and the check word as what is missing from the sum. -/
theorem checkBytesRight : Obligations.CheckBytesRight := by
  refine ⟨by decide, ?_, fun b free => sumWords_checkWord free⟩
  decide

/-! Slices of byte sequences. -/

/-- The `width` bytes of a sequence from a position. -/
def slice (l : List Byte) (start width : Nat) : List Byte := (l.drop start).take width

theorem slice_all {l : List Byte} {width : Nat} (h : l.length = width) : slice l 0 width = l := by
  rw [slice, List.drop_zero, List.take_of_length_le h.le]

theorem slice_append_right {a b : List Byte} {start width : Nat} (h : a.length ≤ start) :
    slice (a ++ b) start width = slice b (start - a.length) width := by
  rw [slice, slice, List.drop_append, List.drop_eq_nil_of_le h, List.nil_append]

theorem slice_append_left {a b : List Byte} {start width : Nat} (h : start + width ≤ a.length) :
    slice (a ++ b) start width = slice a start width := by
  rw [slice, slice, List.drop_append_of_le_length (by omega), List.take_append_of_le_length]
  rw [List.length_drop]
  omega

theorem slice_slice (l : List Byte) {i j w v : Nat} (h : j + v ≤ w) : slice (slice l i w) j v = slice l (i + j) v := by
  rw [slice, slice, slice, List.drop_take, List.drop_drop, List.take_take, min_eq_left (by omega)]

theorem leNat_slice_one {l : List Byte} {i : Nat} (h : i < l.length) : leNat (slice l i 1) = (l.getD i 0).toNat := by
  rw [slice, List.drop_eq_getElem_cons h, List.take_succ_cons, List.take_zero, List.getD_eq_getElem _ _ h]
  simp [leNat]

theorem leNat_leBytes_of_lt {w n : Nat} (h : n < 256 ^ w) : leNat (leBytes w n) = n := by
  rw [leNat_leBytes, Nat.mod_eq_of_lt h]

/-! The bytes of a descriptor (R199). -/

/-- The numbers of a descriptor fit their bytes. -/
structure Descriptor.Fits (d : Descriptor) : Prop where
  columns : 3 ≤ d.members.length ∧ d.members.length ≤ 24
  chunk : d.chunk < 256
  rows : d.rows < 256 ^ 6
  members : ∀ m ∈ d.members, m < 256

/-- A well-formed descriptor fits its bytes: its rows are fewer than its blocks, which are fewer than 2^48. -/
theorem Descriptor.fits_of_wellFormed {d : Descriptor} (h : d.wellFormed = true) : d.Fits := by
  simp only [Descriptor.wellFormed, Bool.and_eq_true, decide_eq_true_eq, List.all_eq_true] at h
  obtain ⟨⟨⟨⟨⟨⟨low, high⟩, chunk⟩, _⟩, members⟩, _⟩, capacity⟩ := h
  have sizes : d.chunk = 1 ∨ d.chunk = 2 ∨ d.chunk = 4 ∨ d.chunk = 8 ∨ d.chunk = 16 ∨ d.chunk = 32 := by
    simpa [chunkSizes] using chunk
  have data : 1 ≤ d.dataColumns := Nat.le_sub_of_add_le ((by decide : 1 + 1 ≤ 3).trans low)
  have rows : d.rows ≤ d.capacity :=
    calc d.rows = d.rows * 1 * 1 := by rw [Nat.mul_one, Nat.mul_one]
      _ ≤ d.rows * d.dataColumns * d.chunk := Nat.mul_le_mul (Nat.mul_le_mul_left _ data) (by omega)
  exact ⟨⟨low, high⟩, by omega, rows.trans_lt capacity, fun m hm => (members m hm).trans (by decide)⟩

@[simp] theorem bytesFrom_length (block : List Byte) (offset length : Nat) :
    (bytesFrom block offset length).length = length := by simp [bytesFrom]

@[simp] theorem Descriptor.bytes_length (d : Descriptor) : d.bytes.length = 32 := by simp [Descriptor.bytes]

theorem Descriptor.slice_columns (d : Descriptor) : slice d.bytes 0 1 = leBytes 1 d.columns := by
  simp (disch := simp) only [Descriptor.bytes, List.append_assoc, slice_append_left, slice_all]

theorem Descriptor.slice_chunk (d : Descriptor) : slice d.bytes 1 1 = leBytes 1 d.chunk := by
  simp (disch := simp) only [Descriptor.bytes, List.append_assoc, slice_append_right, slice_append_left,
    leBytes_length, slice_all, Nat.reduceSub]

theorem Descriptor.slice_rows (d : Descriptor) : slice d.bytes 2 6 = leBytes 6 d.rows := by
  simp (disch := simp) only [Descriptor.bytes, List.append_assoc, slice_append_right, slice_append_left,
    leBytes_length, slice_all, Nat.reduceSub]

/-- The member list entries of a descriptor. -/
theorem Descriptor.slice_member {d : Descriptor} (h : d.Fits) {i : Nat} (hi : i < d.members.length) :
    leNat (slice d.bytes (8 + i) 1) = d.members[i] := by
  have entry : d.members[i] < 256 := h.members _ (List.getElem_mem hi)
  have few : i < 24 := hi.trans_le h.columns.2
  have list : slice d.bytes (8 + i) 1 = slice (bytesFrom (d.members.map (BitVec.ofNat 8)) 0 24) i 1 := by
    rw [Descriptor.bytes, slice_append_right (by simp)]
    simp
  rw [list, leNat_slice_one (by simpa using few)]
  simp [bytesFrom, hi, few, entry]

/-! The head of a record (R199), field by field. -/

section
variable (r : Record)

theorem descriptorBytes_length (d : Option Descriptor) : (descriptorBytes d).length = 32 := by
  cases d <;> simp [descriptorBytes]

theorem Record.head_length : r.head.length = 96 := by
  simp [Record.head, descriptorBytes_length]

theorem Record.slice_format : slice r.head 0 4 = leBytes 4 formatWord := by
  simp (disch := simp) only [Record.head, List.append_assoc, slice_append_left, slice_all]

theorem Record.slice_generation : slice r.head 4 8 = leBytes 8 r.generation.toNat := by
  simp (disch := simp) only [Record.head, List.append_assoc, slice_append_right, slice_append_left, leBytes_length,
    slice_all, Nat.reduceSub]

theorem Record.slice_volume : slice r.head 12 1 = leBytes 1 r.volume.code := by
  simp (disch := simp) only [Record.head, List.append_assoc, slice_append_right, slice_append_left, leBytes_length,
    slice_all, Nat.reduceSub]

theorem Record.slice_flags : slice r.head 13 1 = leBytes 1 r.flags := by
  simp (disch := simp) only [Record.head, List.append_assoc, slice_append_right, slice_append_left, leBytes_length,
    slice_all, Nat.reduceSub]

theorem Record.slice_mark : slice r.head 16 6 = leBytes 6 r.mark := by
  simp (disch := simp) only [Record.head, List.append_assoc, slice_append_right, slice_append_left, leBytes_length,
    slice_all, Nat.reduceSub]

theorem Record.slice_stageRow : slice r.head 22 6 = leBytes 6 ((r.stage.map Prod.fst).getD 0) := by
  simp (disch := simp) only [Record.head, List.append_assoc, slice_append_right, slice_append_left, leBytes_length,
    slice_all, Nat.reduceSub]

theorem Record.slice_stageColumn : slice r.head 28 1 = leBytes 1 ((r.stage.map Prod.snd).getD 0) := by
  simp (disch := simp) only [Record.head, List.append_assoc, slice_append_right, slice_append_left, leBytes_length,
    slice_all, Nat.reduceSub]

theorem Record.slice_current : slice r.head 32 32 = r.current.bytes := by
  simp (disch := simp) only [Record.head, List.append_assoc, slice_append_right, slice_append_left, leBytes_length,
    slice_all, Nat.reduceSub]

theorem Record.slice_target : slice r.head 64 32 = descriptorBytes r.target := by
  simp (disch := simp [descriptorBytes_length]) only [Record.head, List.append_assoc, slice_append_right,
    leBytes_length, Descriptor.bytes_length, slice_all, Nat.reduceSub]

end

/-! The fields of a record block are the slices of its head. -/

theorem leNat_lt_two_pow {l : List Byte} {k : Nat} (h : 8 * l.length ≤ k) : leNat l < 2 ^ k :=
  calc leNat l < 256 ^ l.length := leNat_lt l
    _ = 2 ^ (8 * l.length) := (two_pow_eight_mul _).symm
    _ ≤ 2 ^ k := Nat.pow_le_pow_right (by decide) h

theorem Record.fieldAt_body (r : Record) (i w : Nat) : fieldAt r.body i w = leNat (slice r.head i w) := by
  rw [Record.body, fieldAt_ofNat (leNat_lt_two_pow (by rw [r.head_length]; decide)), leNat_slice, slice]

theorem Record.fieldAt_block (r : Record) {i w : Nat} (h : i + w ≤ 4092) :
    fieldAt r.block i w = leNat (slice r.head i w) := by
  rw [← r.fieldAt_body, fieldAt, fieldAt]
  exact congrArg BitVec.toNat (withLastWord_extract r.body (checkWord r.body) (by omega))

theorem Record.wordAt_body_last (r : Record) : wordAt r.body 1023 = 0 := by
  have past : slice r.head 4092 4 = [] := by
    rw [slice, List.drop_eq_nil_of_le (by rw [r.head_length]; decide), List.take_nil]
  exact BitVec.eq_of_toNat_eq ((r.fieldAt_body 4092 4).trans (congrArg leNat past))

theorem Record.sumWords_block (r : Record) : sumWords r.block 1024 = 0 := sumWords_checkWord r.wordAt_body_last

theorem Record.byteAt_flags (r : Record) : byteAt r.block 13 = BitVec.ofNat 8 r.flags := by
  have field : (byteAt r.block 13).toNat = leNat (leBytes 1 r.flags) :=
    (r.fieldAt_block (by decide : 13 + 1 ≤ 4092)).trans (congrArg leNat r.slice_flags)
  refine BitVec.eq_of_toNat_eq (field.trans ?_)
  rw [leNat_leBytes]
  rfl

theorem Record.flags_target (r : Record) : (byteAt r.block 13).getLsbD 0 = r.target.isSome := by
  rw [r.byteAt_flags, Record.flags]
  cases r.target <;> cases r.stage <;> simp

theorem Record.flags_stage (r : Record) : (byteAt r.block 13).getLsbD 1 = r.stage.isSome := by
  rw [r.byteAt_flags, Record.flags]
  cases r.target <;> cases r.stage <;> simp

/-- A descriptor whose bytes stand in the head of a record is read back from its block. -/
theorem Record.readDescriptor_block (r : Record) {d : Descriptor} (h : d.Fits) {start : Nat} (room : start + 32 ≤ 4092)
    (stands : slice r.head start 32 = d.bytes) :
    fieldAt r.block start 1 = d.members.length ∧ readDescriptor r.block start = d := by
  have field : ∀ i w, i + w ≤ 32 → fieldAt r.block (start + i) w = leNat (slice d.bytes i w) := fun i w hw => by
    rw [r.fieldAt_block (by omega), ← stands, slice_slice _ hw]
  have columns : fieldAt r.block start 1 = d.members.length := by
    have := h.columns
    rw [← Nat.add_zero start, field 0 1 (by omega), d.slice_columns, leNat_leBytes_of_lt (by unfold Descriptor.columns; omega)]
    rfl
  have chunk : fieldAt r.block (start + 1) 1 = d.chunk := by
    rw [field 1 1 (by omega), d.slice_chunk, leNat_leBytes_of_lt h.chunk]
  have rows : fieldAt r.block (start + 2) 6 = d.rows := by
    rw [field 2 6 (by omega), d.slice_rows, leNat_leBytes_of_lt h.rows]
  have members : (List.range (min (fieldAt r.block start 1) 24)).map (fun i => fieldAt r.block (start + 8 + i) 1)
      = d.members := by
    rw [columns, min_eq_left h.columns.2]
    refine List.ext_getElem (by simp) fun i hi hi' => ?_
    have := h.columns
    rw [List.getElem_map, List.getElem_range, Nat.add_assoc, field (8 + i) 1 (by omega), Descriptor.slice_member h hi']
  refine ⟨columns, ?_⟩
  rw [readDescriptor, chunk, rows, members]

/-! What a valid record holds (R97). -/

theorem recordState_code {v : VolumeState} (h : v = .initializing ∨ v = .stable ∨ v = .expanding) :
    recordState v.code = some v := by
  rcases h with rfl | rfl | rfl <;> rfl

theorem VolumeState.code_lt (v : VolumeState) : v.code < 256 := by cases v <;> decide

/-- The numbers of a valid record fit their bytes. -/
structure Record.Fits (r : Record) : Prop where
  current : r.current.Fits
  target : ∀ t, r.target = some t → t.Fits
  mark : r.mark < 256 ^ 6
  stage : ∀ row column, r.stage = some (row, column) → row < 256 ^ 6 ∧ column < 256

theorem Record.fits_of_valid {r : Record} (h : r.valid = true) : r.Fits := by
  simp only [Record.valid, Bool.and_eq_true, decide_eq_true_eq] at h
  obtain ⟨⟨⟨⟨current, target⟩, mark⟩, -⟩, stage⟩ := h
  have fits := Descriptor.fits_of_wellFormed current
  have targetFits : ∀ t, r.target = some t → t.Fits := fun t ht => by
    rw [ht] at target
    simp only [Bool.and_eq_true] at target
    exact Descriptor.fits_of_wellFormed target.1.1
  refine ⟨fits, targetFits, mark.trans_lt fits.rows, fun row column hs => ?_⟩
  rw [hs] at stage
  simp only [Bool.and_eq_true, decide_eq_true_eq] at stage
  obtain ⟨⟨⟨-, below⟩, -⟩, within⟩ := stage
  refine ⟨below.trans fits.rows, ?_⟩
  cases ht : r.target with
  | none => simp [ht] at within
  | some t =>
    have few := (targetFits t ht).columns.2
    simp only [ht, Option.map_some, Option.getD_some, Descriptor.columns] at within
    omega

theorem columnsInRange_of_fits {r : Record} {d : Descriptor} (h : d.Fits) {start : Nat}
    (columns : fieldAt r.block start 1 = d.members.length) : columnsInRange r.block start = true := by
  simpa [columnsInRange, columns] using h.columns

/-- Settles O10: the block passes both tests, its fields are those of the record, and so it is the record. -/
theorem recordRoundTrip : Obligations.RecordRoundTrip := by
  intro r valid generation state
  have fits := Record.fits_of_valid valid
  have format : fieldAt r.block 0 4 = formatWord := by
    rw [r.fieldAt_block (by decide), r.slice_format, leNat_leBytes_of_lt (by decide)]
  have number : BitVec.ofNat 64 (fieldAt r.block 4 8) = r.generation := by
    rw [r.fieldAt_block (by decide), r.slice_generation, leNat_leBytes_of_lt r.generation.isLt, BitVec.ofNat_toNat,
      BitVec.setWidth_eq]
  have volume : fieldAt r.block 12 1 = r.volume.code := by
    rw [r.fieldAt_block (by decide), r.slice_volume, leNat_leBytes_of_lt r.volume.code_lt]
  have mark : fieldAt r.block 16 6 = r.mark := by
    rw [r.fieldAt_block (by decide), r.slice_mark, leNat_leBytes_of_lt fits.mark]
  obtain ⟨columns, current⟩ := r.readDescriptor_block fits.current (by decide) r.slice_current
  have currentRange := columnsInRange_of_fits fits.current columns
  have target : (if r.target.isSome then some (readDescriptor r.block 64) else none) = r.target
      ∧ (!r.target.isSome || columnsInRange r.block 64) = true := by
    cases ht : r.target with
    | none => exact ⟨rfl, rfl⟩
    | some t =>
      have bytes : slice r.head 64 32 = t.bytes := by rw [r.slice_target, ht]; rfl
      obtain ⟨columns, same⟩ := r.readDescriptor_block (fits.target t ht) (by decide) bytes
      exact ⟨congrArg some same, columnsInRange_of_fits (fits.target t ht) columns⟩
  have stage : (if r.stage.isSome then some (fieldAt r.block 22 6, fieldAt r.block 28 1) else none) = r.stage := by
    cases hs : r.stage with
    | none => rfl
    | some x =>
      obtain ⟨row, column⟩ := x
      obtain ⟨below, small⟩ := fits.stage row column hs
      rw [r.fieldAt_block (by decide), r.fieldAt_block (by decide), r.slice_stageRow, r.slice_stageColumn, hs]
      simp only [Option.map_some, Option.getD_some, Option.isSome_some, if_true, leNat_leBytes_of_lt below,
        leNat_leBytes_of_lt (w := 1) small]
  unfold readRecord
  simp only [format, r.sumWords_block, volume, recordState_code state, r.flags_target, r.flags_stage, number, current,
    target.1, target.2, mark, stage, currentRange, beq_self_eq_true, Bool.and_self, if_true, Bool.true_and, valid,
    Bool.and_true, bne_iff_ne, ne_eq, generation, not_false_eq_true]

end Sys2Proof.Machine
end

section
/-! PROOFS. The queue of commands, and the reset (R163): the blocks' reset state, and the event that hands out and grants the 96
probes of discovery. -/

namespace Sys2Proof.Machine

open Sys2Proof

/-- Settles O1, by the two cases of the queue. -/
theorem stepTakesFrontCommand : Obligations.StepTakesFrontCommand :=
  ⟨step_cons, fun s empty => by simp [step, empty]⟩

/-- Settles O2: the reset state written out. -/
theorem resetState : Obligations.ResetState := by
  refine ⟨rfl, rfl, rfl, rfl, rfl, rfl, rfl, rfl, rfl, rfl, rfl, rfl, rfl, rfl, rfl, rfl, rfl, rfl, rfl, rfl, rfl, rfl, rfl,
    rfl, ?slots, rfl, rfl, rfl, rfl, rfl, rfl, ?ports, rfl, rfl, rfl, rfl, rfl, rfl, rfl, rfl, rfl, rfl, rfl, rfl, rfl⟩
  case slots => rintro (_ | _) <;> exact ⟨rfl, rfl, rfl, rfl⟩
  case ports =>
    intro p hp
    obtain ⟨port, -, rfl⟩ := List.mem_map.1 hp
    exact ⟨rfl, rfl, rfl, rfl⟩

/-! The event of the reset: 96 grants, port by port, and then nothing is left to do. -/

/-- A shelf port when its first probes have been granted: those under tags from 0 on, the others still in its queue. -/
def ShelfPort.probesGranted (port granted : Nat) : ShelfPort :=
  { table := (List.range (min granted 16)).map (fun slot =>
      { tag := slot, command := discoveryProbe (16 * port + slot), cls := .migration, attempt := 1, timer := 30 })
    foreground := []
    migration := ((List.range 16).drop granted).map (fun slot => discoveryProbe (16 * port + slot))
    grants := 0
    starvation := if granted < 16 then some 0 else none }

/-- The part when the first `k` probes have been granted and sent. -/
def Bridge.probesGranted (k : Nat) : Bridge :=
  { Bridge.blocksReset with
    shelves := (List.range 6).map (fun port => ShelfPort.probesGranted port (k - 16 * port))
    sent := (List.range k).map probeFrame }

/-- The probes that are handed out join their queues, none of them granted yet. -/
theorem probes_handedOut :
    (List.range 96).foldl (fun b m => b.issueStep .migration [discoveryProbe m]) Bridge.blocksReset
      = Bridge.probesGranted 0 := by
  decide +kernel

theorem Bridge.probesGranted_tick :
    ∀ k < 96, (Bridge.probesGranted k).tick Settings.reset = some (Bridge.probesGranted (k + 1)) := by
  decide +kernel

theorem Bridge.probesGranted_all :
    Bridge.probesGranted 96 = State.reset.bridge ∧ (Bridge.probesGranted 96).tick Settings.reset = none := by
  decide +kernel

/-- A known course of things done takes as much from the bound as it has steps. -/
theorem Bridge.settleWithin_steps {cfg : Settings} {course : Nat → Bridge} {n : Nat}
    (each : ∀ i < n, (course i).tick cfg = some (course (i + 1))) (fuel : Nat) :
    (course 0).settleWithin cfg (n + fuel) = (course n).settleWithin cfg fuel := by
  induction n generalizing fuel with
  | zero => rw [Nat.zero_add]
  | succ n ih =>
    rw [Nat.add_right_comm, Nat.add_assoc, ih (fun i hi => each i (hi.trans (Nat.lt_succ_self n))),
      Bridge.settleWithin_step fuel (each n (Nat.lt_succ_self n))]

theorem probes_settle : (Bridge.probesGranted 0).settle Settings.reset = State.reset.bridge := by
  obtain ⟨all, rest⟩ := Bridge.probesGranted_all
  calc (Bridge.probesGranted 0).settle Settings.reset
      = (Bridge.probesGranted 0).settleWithin Settings.reset (96 + 999904) := rfl
    _ = (Bridge.probesGranted 96).settleWithin Settings.reset 999904 :=
        Bridge.settleWithin_steps Bridge.probesGranted_tick _
    _ = State.reset.bridge := by rw [Bridge.settleWithin_done _ rest, all]

/-! RESET and RESTART. -/

/-- The reset leaves no cause set, so the alert line is inactive. -/
theorem reset_alert : alertActive Settings.reset.alertEnable State.reset.bridge.causes = false := by decide

/-- The reset of the part as an event, with nothing sent before it. -/
theorem State.restarted_event {s : State} (nothing : s.bridge.sent = []) :
    s.restarted.driveAlert = { State.reset with pending := s.pending } := by
  have state : s.restarted = { State.reset with pending := s.pending } := by simp [State.restarted, nothing]
  have line : s.restarted.driveAlert
      = { s.restarted with
          alertLine := alertActive Settings.reset.alertEnable State.reset.bridge.causes } := by rw [state]; rfl
  rw [line, reset_alert, state]
  rfl

/-- A RESTART frame with no ADMIT executing resets the part. -/
theorem State.applyFrame_restart {s : State} {f : WriteFrame} (row : f.row = .restart)
    (idle : s.bridge.command.state = .idle) : s.applyFrame f = s.restarted := by
  simp [State.applyFrame, row, CommandRecord.busy, idle]

/-- Settles O3: the 96 grants by the course of the event, and both commands by the reset of an event with nothing sent. -/
theorem resetAndRestart : Obligations.ResetAndRestart := by
  refine ⟨(congrArg (Bridge.settle Settings.reset) probes_handedOut).trans probes_settle, fun s => ?_,
    fun s f rest waiting row idle => ?_⟩
  · exact congrArg Host.Outcome.next (State.restarted_event (s := { s with bridge := { s.bridge with sent := [] } }) rfl)
  · calc exec .restart s = .next (s.processAs .restart) := rfl
      _ = .next (s.beforeFrame rest).restarted.driveAlert := by
        rw [State.processAs_waiting waiting row, State.applyFrame_restart (s := s.beforeFrame rest) row idle]
      _ = .next { State.reset with pending := s.pending } :=
        congrArg Host.Outcome.next (State.restarted_event (s := s.beforeFrame rest) rfl)

end Sys2Proof.Machine
end

section
/-! PROOFS. The frames of the array link: what decides a frame (R21 to R25), and what an accepted READ or WRITE leaves (R27). -/

namespace Sys2Proof.Machine

open Sys2Proof

/-! Numbers as bytes. -/

theorem leBytes_eq_map (w n : Nat) : leBytes w n = (List.range w).map (fun i => BitVec.ofNat 8 (n / 256 ^ i)) := by
  induction w generalizing n with
  | zero => rfl
  | succ w ih =>
    rw [leBytes, ih, List.range_succ_eq_map, List.map_cons, List.map_map, pow_zero, Nat.div_one]
    refine congrArg _ (List.map_congr_left fun i _ => ?_)
    rw [Function.comp_apply, Nat.div_div_eq_div_mul, ← pow_succ']

theorem leBytes_toNat {v : Nat} (w : Nat) (x : BitVec v) :
    leBytes w x.toNat = (List.range w).map (fun i => x.extractLsb' (8 * i) 8) := by
  rw [leBytes_eq_map]
  refine List.map_congr_left fun i _ => ?_
  rw [BitVec.extractLsb', Nat.shiftRight_eq_div_pow, two_pow_eight_mul]

theorem headerBytes_eq (kind : Byte) (h : Header) :
    headerBytes kind h =
      [kind, h.tag] ++ (List.range 2).map (fun i => h.count.extractLsb' (8 * i) 8)
        ++ (List.range 6).map (fun i => h.lba.extractLsb' (8 * i) 8)
        ++ (List.range 5).map (fun i => h.carried.extractLsb' (8 * i) 8) ++ [h.check] := by
  rw [headerBytes, leBytes_toNat, leBytes_toNat, leBytes_toNat]

/-! The early tests of a frame (R21, steps 1 to 4). -/

/-- The bridge as an event finds it: the frames of the event before are no longer shown. -/
def State.eventBridge (s : State) : Bridge := { s.bridge with sent := [] }

@[simp] theorem State.eventBridge_port (s : State) : s.eventBridge.port = s.bridge.port := rfl
@[simp] theorem State.eventBridge_engine (s : State) : s.eventBridge.engine = s.bridge.engine := rfl
@[simp] theorem State.eventBridge_members (s : State) : s.eventBridge.members = s.bridge.members := rfl
@[simp] theorem State.eventBridge_command (s : State) : s.eventBridge.command = s.bridge.command := rfl
@[simp] theorem State.eventBridge_discovery (s : State) : s.eventBridge.discovery = s.bridge.discovery := rfl
@[simp] theorem State.eventBridge_work (s : State) : s.eventBridge.work = s.bridge.work := rfl
@[simp] theorem State.eventBridge_sent (s : State) : s.eventBridge.sent = [] := rfl

theorem State.onBridge_eq (f : Bridge → Bridge) (s : State) : s.onBridge f = s.withBridge (f s.eventBridge) := rfl

/-- A request frame that reaches step 5 of R21 gets the rest of its handling. -/
theorem State.takeFrame_passed {s : State} {kind : Byte} {h : Header} (passed : s.pastEarlyTests kind h = true)
    (rest : Bridge → Bridge) : s.eventBridge.takeFrame s.mgmt.settings kind h rest = rest s.eventBridge :=
  Bridge.takeFrame_passed passed rest

/-- Every frame of the array link gets the early tests, and then the rest of its own handling. -/
theorem exec_arrayFrame {i : Instr} {kind : Byte} {h : Header} (frame : arrayFrame? i = some (kind, h)) (s : State) :
    ∃ rest, exec i s = .next (s.withBridge (s.eventBridge.takeFrame s.mgmt.settings kind h rest)) := by
  cases i with
  | read | write | flush | capacity =>
    obtain ⟨rfl, rfl⟩ := Prod.mk.inj (Option.some.inj frame)
    exact ⟨_, rfl⟩
  | unknownKind kind hd extra =>
    obtain ⟨rfl, rfl⟩ := Prod.mk.inj (Option.some.inj frame)
    exact ⟨fun b => b.answer hd .invalid, rfl⟩
  | _ => exact absurd frame (by simp [arrayFrame?])

theorem checkFails_iff (cfg : Settings) (kind : Byte) (h : Header) :
    checkFails cfg kind h = true ↔ cfg.checkEnable = true ∧ crc8 ((headerBytes kind h).take 15) ≠ h.check := by
  simp [checkFails, computedCheck]

theorem checkFails_eq_false {cfg : Settings} {kind : Byte} {h : Header}
    (passes : cfg.checkEnable = true → crc8 ((headerBytes kind h).take 15) = h.check) : checkFails cfg kind h = false :=
  Bool.eq_false_iff.2 fun fails => ((checkFails_iff cfg kind h).1 fails).2 (passes ((checkFails_iff cfg kind h).1 fails).1)

section
variable {cfg : Settings} {b : Bridge} {kind : Byte} {h : Header} (rest : Bridge → Bridge)

theorem Bridge.takeFrame_check (fails : checkFails cfg kind h = true) :
    b.takeFrame cfg kind h rest = b.captureFrame cfg .check kind h := by
  simp [Bridge.takeFrame, Bridge.earlyTest, fails]

theorem Bridge.takeFrame_busy (passes : checkFails cfg kind h = false) (volume : b.engine.volume = .discovering) :
    b.takeFrame cfg kind h rest = b.answer h .busy := by
  simp [Bridge.takeFrame, Bridge.earlyTest, passes, volume]

theorem Bridge.takeFrame_badTag (passes : checkFails cfg kind h = false) (volume : b.engine.volume ≠ .discovering)
    (tag : Config.requestTags ≤ h.tag.toNat) : b.takeFrame cfg kind h rest = b.answer h .invalid := by
  simp [Bridge.takeFrame, Bridge.earlyTest, passes, volume, tag]

theorem Bridge.takeFrame_dupTag (passes : checkFails cfg kind h = false) (volume : b.engine.volume ≠ .discovering)
    (tag : h.tag.toNat < Config.requestTags) (taken : b.port.outstanding h.tag.toNat = true) :
    b.takeFrame cfg kind h rest = b.captureFrame cfg .dupTag kind h := by
  simp [Bridge.takeFrame, Bridge.earlyTest, passes, volume, Nat.not_le.2 tag, taken]

end

/-- What a captured frame leaves, its parts written out (R38, R39). -/
theorem Bridge.captureFrame_eq (cfg : Settings) (b : Bridge) (cause : CaptureCause) (kind : Byte) (h : Header) :
    b.captureFrame cfg cause kind h =
      { b with
        port :=
          { b.port with
            capture := some (match b.port.capture with
              | none =>
                  { cause := cause, header := headerBytes kind h
                    computed := crc8 ((headerBytes kind h).take 15), overrun := false }
              | some c => { c with overrun := true })
            captures := b.port.captures + 1
            check := match cfg.checkMode with
              | .strict => .fenced
              | .persistent => b.port.check }
        causes := b.causes ||| 0x01 } := by
  unfold Bridge.captureFrame ArrayPort.capturing captureAfter
  cases b.port.capture <;> cases cfg.checkMode <;> rfl

/-- Settles O11: the header's bytes, and the two early tests that capture a frame. -/
theorem discardedFrameCaptured : Obligations.DiscardedFrameCaptured := by
  refine ⟨headerBytes_eq, fun i kind h s cause frame why => ?_⟩
  obtain ⟨rest, executes⟩ := exec_arrayFrame frame s
  have captured : s.eventBridge.takeFrame s.mgmt.settings kind h rest
      = s.eventBridge.captureFrame s.mgmt.settings cause kind h := by
    rcases why with ⟨rfl, enabled, wrong⟩ | ⟨rfl, passes, volume, tag, taken⟩
    · exact Bridge.takeFrame_check rest ((checkFails_iff _ _ _).2 ⟨enabled, wrong⟩)
    · exact Bridge.takeFrame_dupTag rest (checkFails_eq_false passes) volume tag ((ArrayPort.outstanding_iff _ _).2 taken)
  rw [executes, captured, Bridge.captureFrame_eq]
  rfl

/-- Settles O12: the two early tests that answer a frame, and step 5 for an unknown kind. -/
theorem frameAnsweredBusyOrInvalid : Obligations.FrameAnsweredBusyOrInvalid := by
  refine ⟨fun i kind h s frame passes => ?_, fun kind h extra s passed => ?_⟩
  · obtain ⟨rest, executes⟩ := exec_arrayFrame frame s
    refine ⟨fun volume => ?_, fun volume tag => ?_⟩
    · rw [executes, Bridge.takeFrame_busy (b := s.eventBridge) rest passes volume]
      rfl
    · rw [executes, Bridge.takeFrame_badTag (b := s.eventBridge) rest passes volume tag]
      rfl
  · have executes : exec (.unknownKind kind h extra) s
        = .next (s.withBridge (s.eventBridge.takeFrame s.mgmt.settings kind h (fun b => b.answer h .invalid))) := rfl
    rw [executes, State.takeFrame_passed passed]
    rfl

/-- The visible capacity by the volume state (R68). -/
theorem Engine.visibleCapacity_eq (e : Engine) :
    e.visibleCapacity = if e.volume = .stable ∨ e.volume = .expanding then
      (e.current.map (fun d => d.rows * (d.members.length - 1) * d.chunk)).getD 0 else 0 := by
  unfold Engine.visibleCapacity
  cases e.volume <;> rfl

/-- Settles O13: the reply is the one of the model, its capacity by the volume state. -/
theorem capacityReplied : Obligations.CapacityReplied := by
  intro h extra s passed e capacity
  have executes : exec (.capacity h extra) s
      = .next (s.withBridge (s.eventBridge.takeFrame s.mgmt.settings 0x04 h (Bridge.capacityRest h))) := rfl
  have visible : e.visibleCapacity = capacity := by
    unfold Engine.visibleCapacity
    dsimp only [capacity]
    cases e.volume <;> cases e.current <;> rfl
  have expanding : leBytes 1 (if (e.volume == .expanding) = true then 1 else 0)
      = [if e.volume = .expanding then 1 else 0] := by
    cases e.volume <;> rfl
  have reply : e.capacityReply =
      leBytes 6 capacity ++ leBytes 8 e.generation.toNat ++ leBytes 1 e.volume.code
        ++ leBytes 1 ((e.current.map Descriptor.chunk).getD 0)
        ++ leBytes 1 ((e.current.map (fun d => d.members.length - 1)).getD 0)
        ++ [if e.volume = .expanding then 1 else 0] := by
    rw [← visible, ← expanding]
    rfl
  rw [executes, State.takeFrame_passed passed, Bridge.capacityRest, show s.eventBridge.engine = e from rfl, reply]
  rfl

/-! The late tests of a READ or WRITE (R21, steps 7 to 12). -/

section
variable {b : Bridge} {h : Header} {fits : Bool}

theorem countValid_iff (h : Header) : countValid h = true ↔ ¬(h.count.toNat = 0 ∨ 256 < h.count.toNat) := by
  simp only [countValid, Bool.and_eq_true, decide_eq_true_eq]
  unfold Config.maxCount
  omega

theorem Bridge.inRange_iff (b : Bridge) (h : Header) :
    b.inRange h = true ↔ ¬b.engine.visibleCapacity < h.lba.toNat + h.count.toNat := by
  rw [Bridge.inRange, decide_eq_true_eq, Nat.not_lt]

theorem Bridge.hasPieces_iff (b : Bridge) (h : Header) :
    b.hasPieces h = true ↔
      ¬512 - (b.port.table.map (fun r => r.pieces.length)).sum < pieceCount b.engine.chunk h.lba.toNat h.count.toNat := by
  rw [Bridge.hasPieces, decide_eq_true_eq, Nat.not_lt]
  rfl

theorem Bridge.lateTest_count (bad : h.count.toNat = 0 ∨ 256 < h.count.toNat) : b.lateTest h fits = some .invalid := by
  have test : countValid h = false := Bool.eq_false_iff.2 fun valid => (countValid_iff h).1 valid bad
  simp [Bridge.lateTest, test]

theorem Bridge.lateTest_payload (good : ¬(h.count.toNat = 0 ∨ 256 < h.count.toNat)) :
    b.lateTest h false = some .invalid := by
  simp [Bridge.lateTest, (countValid_iff h).2 good]

theorem Bridge.lateTest_range (good : ¬(h.count.toNat = 0 ∨ 256 < h.count.toNat))
    (outside : b.engine.visibleCapacity < h.lba.toNat + h.count.toNat) : b.lateTest h true = some .range := by
  have test : b.inRange h = false := Bool.eq_false_iff.2 fun inside => (b.inRange_iff h).1 inside outside
  simp [Bridge.lateTest, (countValid_iff h).2 good, test]

theorem Bridge.lateTest_pieces (good : ¬(h.count.toNat = 0 ∨ 256 < h.count.toNat))
    (inside : ¬b.engine.visibleCapacity < h.lba.toNat + h.count.toNat)
    (short : 512 - (b.port.table.map (fun r => r.pieces.length)).sum < pieceCount b.engine.chunk h.lba.toNat h.count.toNat) :
    b.lateTest h true = some .busy := by
  have test : b.hasPieces h = false := Bool.eq_false_iff.2 fun enough => (b.hasPieces_iff h).1 enough short
  simp [Bridge.lateTest, (countValid_iff h).2 good, (b.inRange_iff h).2 inside, test]

theorem Bridge.lateTest_passed (good : ¬(h.count.toNat = 0 ∨ 256 < h.count.toNat))
    (inside : ¬b.engine.visibleCapacity < h.lba.toNat + h.count.toNat)
    (enough : ¬512 - (b.port.table.map (fun r => r.pieces.length)).sum
      < pieceCount b.engine.chunk h.lba.toNat h.count.toNat) : b.lateTest h true = none := by
  simp [Bridge.lateTest, (countValid_iff h).2 good, (b.inRange_iff h).2 inside, (b.hasPieces_iff h).2 enough]

end

theorem Bridge.writeRest_fenced {cfg : Settings} {b : Bridge} {h : Header} {payload : Body}
    (fenced : b.port.check = .fenced) : b.writeRest cfg h payload = b.answer h .fenced := by
  simp [Bridge.writeRest, fenced]

/-- With the port OPEN the late tests decide a WRITE. -/
theorem Bridge.writeRest_open {cfg : Settings} {b : Bridge} {h : Header} {payload : Body}
    (clear : b.port.check ≠ .fenced) :
    b.writeRest cfg h payload =
      match b.lateTest h (payloadFits h payload) with
      | some status => b.answer h status
      | none => b.accept cfg h .write payload.blocks :=
  if_neg (by simpa using clear)

/-- A READ or WRITE that passes the early tests: a WRITE while fenced is answered, and else the late tests decide. -/
theorem exec_blockRequest {i : Instr} {kind : Byte} {h : Header} {fits : Bool} {s : State}
    (frame : arrayFrame? i = some (kind, h)) (request : blockRequest? i = some (h, fits))
    (passed : s.pastEarlyTests kind h = true) :
    (kind = 0x02 ∧ s.bridge.port.check = .fenced →
        exec i s = .next (s.withBridge (s.eventBridge.answer h .fenced)))
      ∧ ∀ status, ¬(kind = 0x02 ∧ s.bridge.port.check = .fenced) → s.eventBridge.lateTest h fits = some status →
        exec i s = .next (s.withBridge (s.eventBridge.answer h status)) := by
  cases i with
  | read hd extra =>
    obtain ⟨rfl, rfl⟩ := Prod.mk.inj (Option.some.inj frame)
    obtain ⟨-, rfl⟩ := Prod.mk.inj (Option.some.inj request)
    have executes : exec (.read hd extra) s
        = .next (s.withBridge (s.eventBridge.readRest s.mgmt.settings hd)) :=
      congrArg (fun b => Host.Outcome.next (s.withBridge b)) (State.takeFrame_passed passed _)
    refine ⟨fun fenced => absurd fenced.1 (by decide), fun status _ late => ?_⟩
    rw [executes, Bridge.readRest, late]
  | write hd payload =>
    obtain ⟨rfl, rfl⟩ := Prod.mk.inj (Option.some.inj frame)
    obtain ⟨-, rfl⟩ := Prod.mk.inj (Option.some.inj request)
    have executes : exec (.write hd payload) s
        = .next (s.withBridge (s.eventBridge.writeRest s.mgmt.settings hd payload)) :=
      congrArg (fun b => Host.Outcome.next (s.withBridge b)) (State.takeFrame_passed passed _)
    refine ⟨fun fenced => ?_, fun status clear late => ?_⟩
    · rw [executes, Bridge.writeRest_fenced (b := s.eventBridge) fenced.2]
    · rw [executes, Bridge.writeRest_open (b := s.eventBridge) fun fenced => clear ⟨rfl, fenced⟩, late]
  | _ => exact absurd request (by simp [blockRequest?])

/-- Settles O14: the first of the tests that holds decides the request. -/
theorem blockRequestRefused : Obligations.BlockRequestRefused := by
  intro i kind h fits s status frame request passed fenced badCount e visible free outside short why
  obtain ⟨answered, late⟩ := exec_blockRequest frame request passed
  have capacity : s.bridge.engine.visibleCapacity = visible := Engine.visibleCapacity_eq _
  rcases why with ⟨hf, rfl⟩ | ⟨hf, bad, rfl⟩ | ⟨hf, good, rfl, rfl⟩ | ⟨hf, good, rfl, out, rfl⟩
    | ⟨hf, good, rfl, inside, few, rfl⟩
  · exact answered hf
  · exact late .invalid hf (Bridge.lateTest_count bad)
  · exact late .invalid hf (Bridge.lateTest_payload good)
  · exact late .range hf (Bridge.lateTest_range good (capacity ▸ out))
  · exact late .busy hf (Bridge.lateTest_pieces good (capacity ▸ inside) few)

/-- The bridge when an accepted READ or WRITE stands in the table, before the rest of the event (R27, R41, R153). -/
def Bridge.entered (cfg : Settings) (b : Bridge) (r : Request) : Bridge :=
  { b with
    port :=
      { b.port with
        table := b.port.table ++ [r], arrivals := b.port.arrivals + 1
        foreground := foregroundCount b.port.table + 1 }
    pacing := pacingAfter cfg b.pacing (foregroundCount b.port.table + 1) }

/-- F rises by an entry that counts. -/
theorem Bridge.enter_foregroundChanged (cfg : Settings) (b : Bridge) {r : Request} (counts : r.kind.counts = true) :
    (b.enter r).foregroundChanged cfg = b.entered cfg r := by
  have count : foregroundCount (b.enter r).port.table = foregroundCount b.port.table + 1 := by
    simp [Bridge.enter, foregroundCount, counts]
  unfold Bridge.foregroundChanged
  rw [count]
  rfl

theorem Bridge.accept_eq (cfg : Settings) (b : Bridge) (h : Header) {kind : RequestKind} (counts : kind.counts = true)
    (buffer : List Block) : b.accept cfg h kind buffer = (b.entered cfg (b.newRequest h kind buffer)).settle cfg :=
  congrArg (Bridge.settle cfg) (Bridge.enter_foregroundChanged cfg b counts)

/-- Settles O15: a request that every test passes enters the table, F rises by it, and the rest of the event follows. -/
theorem blockRequestAccepted : Obligations.BlockRequestAccepted := by
  intro h payload s low high e visible free inside enough entry f accepted
  have capacity : s.bridge.engine.visibleCapacity = visible := Engine.visibleCapacity_eq _
  have good : ¬(h.count.toNat = 0 ∨ 256 < h.count.toNat) := by omega
  have passes : s.eventBridge.lateTest h true = none :=
    Bridge.lateTest_passed good (Nat.not_lt.2 (inside.trans_eq capacity.symm)) (Nat.not_lt.2 enough)
  refine ⟨fun passed => ?_, fun passed clear blocks tail => ?_⟩
  · calc exec (.read h payload) s
        = .next (s.withBridge (s.eventBridge.readRest s.mgmt.settings h)) :=
          congrArg (fun b => Host.Outcome.next (s.withBridge b)) (State.takeFrame_passed passed _)
      _ = .next (s.withBridge (s.eventBridge.accept s.mgmt.settings h .read (zeroBlocks h.count.toNat))) := by
          rw [Bridge.readRest, passes]
      _ = .next (accepted (entry .read .read (List.replicate h.count.toNat 0))) := by
          rw [Bridge.accept_eq _ _ _ rfl]
          rfl
  · have fits : payloadFits h payload = true := by simp [payloadFits, blocks, tail]
    calc exec (.write h payload) s
        = .next (s.withBridge (s.eventBridge.writeRest s.mgmt.settings h payload)) :=
          congrArg (fun b => Host.Outcome.next (s.withBridge b)) (State.takeFrame_passed passed _)
      _ = .next (s.withBridge (s.eventBridge.accept s.mgmt.settings h .write payload.blocks)) := by
          rw [Bridge.writeRest_open (by simp [clear]), fits, passes]
      _ = .next (accepted (entry .write .write payload.blocks)) := by
          rw [Bridge.accept_eq _ _ _ rfl]
          rfl

end Sys2Proof.Machine
end

section
/-! PROOFS. The completion of requests (R34, R35, R37): the FLUSH entries that wait or complete, and the end of a piece. -/

namespace Sys2Proof.Machine

open Sys2Proof

/-! The frame of a completion. -/

/-- The completion frame of a FLUSH entry. -/
def Request.flushFrame (w : Request) : Output := .arrayFrame [BitVec.ofNat 8 w.tag, w.status.status.code] []

theorem Bridge.sendCompletion_flush_eq {b : Bridge} {w : Request} (flush : w.kind = .flush) :
    b.sendCompletion w =
      { b with
        port := { b.port with table := b.port.table.filter (fun x => x.tag != w.tag) }
        sent := b.sent ++ [w.flushFrame] } := by
  simp [Bridge.sendCompletion, flush, Bridge.send, completionFrame, Request.flushFrame]

theorem ArrayPort.flushWaits_iff (p : ArrayPort) (w : Request) :
    p.flushWaits w = true ↔ ∃ r ∈ p.table, r.tag ≠ w.tag ∧ arrivalEarlier r.arrival w.arrival = true := by
  simp [ArrayPort.flushWaits]

/-! The order of arrival numbers (R28). -/

theorem arrivalEarlier_iff (a b : BitVec 32) :
    arrivalEarlier a b = true ↔ 1 ≤ (b - a).toNat ∧ (b - a).toNat ≤ 2 ^ 31 - 1 := by
  simp [arrivalEarlier]

/-- The distances of two arrival numbers in the two directions make a full turn. -/
theorem arrival_distance {a b : BitVec 32} (ne : 1 ≤ (b - a).toNat) : (a - b).toNat = 2 ^ 32 - (b - a).toNat := by
  simp only [BitVec.toNat_sub] at *
  omega

theorem arrivalEarlier_asymm {a b : BitVec 32} (h : arrivalEarlier a b = true) : arrivalEarlier b a = false := by
  obtain ⟨ne, near⟩ := (arrivalEarlier_iff a b).1 h
  refine Bool.eq_false_iff.2 fun back => ?_
  have far := ((arrivalEarlier_iff b a).1 back).2
  rw [arrival_distance ne] at far
  omega

/-! The test of the FLUSH entries (R37). -/

/-- When every FLUSH entry waits nothing changes. -/
theorem Bridge.testFlushes_waiting {b : Bridge}
    (wait : ∀ w ∈ b.port.table, w.kind = .flush → b.port.flushWaits w = true) : b.testFlushes = b := by
  have entries : ∀ w ∈ b.port.table.filter (fun r => r.kind == .flush), b.port.flushWaits w = true := fun w hw =>
    wait w (List.mem_of_mem_filter hw) (by simpa using (List.mem_filter.1 hw).2)
  unfold Bridge.testFlushes
  revert entries
  induction b.port.table.filter (fun r => r.kind == .flush) with
  | nil => exact fun _ => rfl
  | cons w rest ih =>
    intro entries
    rw [List.foldl_cons, if_pos (entries w List.mem_cons_self)]
    exact ih fun x hx => entries x (List.mem_cons_of_mem w hx)

/-- What the test of the FLUSH entries sends is completions of FLUSH entries, and it takes entries out of the table only. -/
theorem Bridge.testFlushes_sends (b : Bridge) :
    (∃ more : List Output, b.testFlushes.sent = b.sent ++ more
        ∧ ∀ x ∈ more, ∃ w ∈ b.port.table, w.kind = .flush ∧ x = w.flushFrame)
      ∧ (∀ r ∈ b.testFlushes.port.table, r ∈ b.port.table)
      ∧ b.testFlushes.port.foreground = b.port.foreground := by
  have flushes : ∀ w ∈ b.port.table.filter (fun r => r.kind == .flush), w ∈ b.port.table ∧ w.kind = .flush := fun w hw =>
    ⟨List.mem_of_mem_filter hw, by simpa using (List.mem_filter.1 hw).2⟩
  unfold Bridge.testFlushes
  revert flushes
  generalize b.port.table.filter (fun r => r.kind == .flush) = entries
  generalize htable : b.port.table = table
  intro flushes
  have inside : ∀ r ∈ b.port.table, r ∈ table := fun r hr => htable ▸ hr
  clear htable
  induction entries generalizing b with
  | nil => exact ⟨⟨[], (List.append_nil _).symm, by simp⟩, inside, rfl⟩
  | cons w rest ih =>
    obtain ⟨own, flush⟩ := flushes w List.mem_cons_self
    have others := fun x hx => flushes x (List.mem_cons_of_mem w hx)
    rw [List.foldl_cons]
    split
    · exact ih b others inside
    · have left : ∀ r ∈ (b.sendCompletion w).port.table, r ∈ table := fun r hr => inside r (List.mem_of_mem_filter hr)
      obtain ⟨⟨more, sent, each⟩, kept, foreground⟩ := ih (b.sendCompletion w) others left
      refine ⟨⟨w.flushFrame :: more, ?_, fun x hx => ?_⟩, kept, foreground⟩
      · rw [sent, Bridge.sendCompletion_flush_eq flush]
        simp
      · rcases List.mem_cons.1 hx with rfl | hx
        · exact ⟨w, own, flush, rfl⟩
        · exact each x hx

/-- A table that stands in arrival order, its tags apart. -/
def ordered (table : List Request) : Prop :=
  (table.map Request.tag).Nodup ∧ table.Pairwise (fun x y => arrivalEarlier x.arrival y.arrival = true)

/-- In a table in arrival order the FLUSH entries at its head complete, in order, and every other one stays. -/
theorem Bridge.testFlushes_ordered {b : Bridge} {table : List Request} (own : b.port.table = table)
    (order : ordered table) :
    b.testFlushes.sent = b.sent ++ (table.takeWhile (fun w => w.kind = .flush)).map Request.flushFrame
      ∧ b.testFlushes.port.table = table.dropWhile (fun w => w.kind = .flush) := by
  induction table generalizing b with
  | nil => simp [Bridge.testFlushes, own]
  | cons w rest ih =>
    obtain ⟨tags, arrivals⟩ := order
    rw [List.map_cons, List.nodup_cons] at tags
    rw [List.pairwise_cons] at arrivals
    have apart : ∀ x ∈ rest, x.tag ≠ w.tag := fun x hx same => tags.1 (same ▸ List.mem_map_of_mem hx)
    by_cases flush : w.kind = .flush
    · have first : b.port.flushWaits w = false := by
        refine Bool.eq_false_iff.2 fun waits => ?_
        obtain ⟨r, hr, other, earlier⟩ := (b.port.flushWaits_iff w).1 waits
        rw [own] at hr
        rcases List.mem_cons.1 hr with rfl | hr
        · exact other rfl
        · exact Bool.false_ne_true ((arrivalEarlier_asymm (arrivals.1 r hr)).symm.trans earlier)
      have table : (b.sendCompletion w).port.table = rest := by
        rw [Bridge.sendCompletion_flush_eq flush, own, List.filter_cons_of_neg (by simp)]
        exact List.filter_eq_self.2 fun x hx => by simpa using apart x hx
      have goes : b.testFlushes = (b.sendCompletion w).testFlushes := by
        unfold Bridge.testFlushes
        rw [table, own, List.filter_cons_of_pos (by simp [flush]), List.foldl_cons, first]
        rfl
      obtain ⟨sent, left⟩ := ih table ⟨tags.2, arrivals.2⟩
      rw [goes, sent, left, List.takeWhile_cons_of_pos (by simpa using flush), List.dropWhile_cons_of_pos (by simpa using flush),
        Bridge.sendCompletion_flush_eq flush]
      simp
    · have wait : ∀ x ∈ b.port.table, x.kind = .flush → b.port.flushWaits x = true := fun x hx kind => by
        rw [own] at hx
        rcases List.mem_cons.1 hx with rfl | hx
        · exact absurd kind flush
        · refine (b.port.flushWaits_iff x).2 ⟨w, ?_, (apart x hx).symm, arrivals.1 x hx⟩
          rw [own]
          exact List.mem_cons_self
      rw [Bridge.testFlushes_waiting wait, own, List.takeWhile_cons_of_neg (by simpa using flush),
        List.dropWhile_cons_of_neg (by simpa using flush)]
      simp

/-! A FLUSH that is accepted. -/

/-- The bridge with a FLUSH entered in the table. -/
theorem exec_flush {h : Header} {s : State} (extra : Body) (passed : s.pastEarlyTests 0x03 h = true) :
    exec (.flush h extra) s
      = .next (s.withBridge (s.eventBridge.enter (s.eventBridge.newRequest h .flush [])).testFlushes) :=
  congrArg (fun b => Host.Outcome.next (s.withBridge b)) (State.takeFrame_passed passed _)

theorem State.tag_free {s : State} {kind : Byte} {h : Header} (passed : s.pastEarlyTests kind h = true) :
    ∀ r ∈ s.bridge.port.table, r.tag ≠ h.tag.toNat := by
  have free := (Bool.and_eq_true_iff.1 passed).2
  exact ArrayPort.outstanding_eq_false (by simpa using free)

theorem Bridge.flush_completes {b : Bridge} (h : Header) (empty : b.port.table = []) :
    (b.enter (b.newRequest h .flush [])).testFlushes =
      { b with
        port := { b.port with arrivals := b.port.arrivals + 1 }
        sent := b.sent ++ [.arrayFrame [h.tag, 0x00] []] } := by
  have table : (b.enter (b.newRequest h .flush [])).port.table = [b.newRequest h .flush []] := by
    simp [Bridge.enter, empty]
  have alone : (b.enter (b.newRequest h .flush [])).port.flushWaits (b.newRequest h .flush []) = false := by
    simp [ArrayPort.flushWaits, table]
  have frame : (b.newRequest h .flush []).flushFrame = .arrayFrame [h.tag, 0x00] [] := by
    simp [Request.flushFrame, Bridge.newRequest, PieceOutcome.status, Status.code]
  unfold Bridge.testFlushes
  rw [table, List.filter_cons_of_pos rfl, List.filter_nil, List.foldl_cons, List.foldl_nil, alone,
    if_neg Bool.false_ne_true, Bridge.sendCompletion_flush_eq rfl, frame, table]
  simp [Bridge.enter, empty]

theorem Bridge.flush_waits {b : Bridge} {h : Header} (free : ∀ r ∈ b.port.table, r.tag ≠ h.tag.toNat)
    (earlier : ∃ r ∈ b.port.table, arrivalEarlier r.arrival b.port.arrivals = true)
    (others : ∀ w ∈ b.port.table, w.kind = .flush →
      ∃ r ∈ b.port.table, r.tag ≠ w.tag ∧ arrivalEarlier r.arrival w.arrival = true) :
    (b.enter (b.newRequest h .flush [])).testFlushes = b.enter (b.newRequest h .flush []) := by
  refine Bridge.testFlushes_waiting fun w hw flush => (ArrayPort.flushWaits_iff _ w).2 ?_
  rcases List.mem_append.1 hw with hw | hw
  · obtain ⟨r, hr, apart, before⟩ := others w hw flush
    exact ⟨r, List.mem_append_left _ hr, apart, before⟩
  · obtain rfl := List.mem_singleton.1 hw
    obtain ⟨r, hr, before⟩ := earlier
    exact ⟨r, List.mem_append_left _ hr, free r hr, before⟩

/-! The end of a piece at the array port (R34, R35). -/

/-- A request with a piece of it ended. -/
def Request.pieceEnded (r : Request) (p : Piece) (index : Nat) (outcome : PieceOutcome) (blocks : List Block) : Request :=
  let o := p.lba - r.lba
  { r with
    pieces := r.pieces.map (fun q => if q.index = index then { q with state := .done, outcome := some outcome } else q)
    status := if outcome = .lost then .lost else r.status
    buffer := if p.direction = .read ∧ outcome = .good
      then r.buffer.take o ++ blocks ++ r.buffer.drop (o + blocks.length) else r.buffer }

/-- Blocks that fit their place stand there whole. -/
theorem spliceAt_of_fits {α : Type} {items new : List α} {start : Nat} (h : start + new.length ≤ items.length) :
    spliceAt items start new = items.take start ++ new ++ items.drop (start + new.length) := by
  have whole : new.take (items.length - start) = new := List.take_of_length_le (by omega)
  rw [spliceAt, whole, List.append_assoc]

section
variable {b : Bridge} {tag index : Nat} {r : Request} {p : Piece} {outcome : PieceOutcome} {blocks : List Block}

theorem ArrayPort.request?_tag {a : ArrayPort} (found : a.request? tag = some r) : r.tag = tag := by
  simpa using List.find?_some found

/-- A change of the request of a tag leaves the entries under other tags. -/
theorem Bridge.onRequest_others (b : Bridge) (tag : Nat) {f : Request → Request} (same : ∀ x, (f x).tag = x.tag) :
    (b.onRequest tag f).port.table.filter (fun x => x.tag != tag) = b.port.table.filter (fun x => x.tag != tag) := by
  have tags : (fun x : Request => x.tag != tag) ∘ (fun x => if x.tag == tag then f x else x) = fun x => x.tag != tag := by
    funext x
    rw [Function.comp_apply]
    split
    · rw [same]
    · rfl
  rw [Bridge.onRequest_table, List.filter_map, tags]
  refine (List.map_congr_left fun x hx => ?_).trans (List.map_id _)
  have other : x.tag ≠ tag := by simpa using (List.mem_filter.1 hx).2
  rw [if_neg (by simpa using other), id]

/-- The record of the end of a piece changes the table only, there the entries of its tag only. -/
theorem Bridge.recordDone_only (b : Bridge) (tag index : Nat) (outcome : PieceOutcome) (blocks : List Block) :
    b.recordDone tag index outcome blocks
        = { b with port := { b.port with table := (b.recordDone tag index outcome blocks).port.table } }
      ∧ (b.recordDone tag index outcome blocks).port.table.filter (fun x => x.tag != tag)
          = b.port.table.filter (fun x => x.tag != tag) := by
  unfold Bridge.recordDone
  split
  · exact ⟨rfl, rfl⟩
  · refine ⟨rfl, (Bridge.onRequest_others _ tag ?_).trans (Bridge.onRequest_others b tag ?_)⟩
    all_goals exact fun _ => rfl

theorem Bridge.recordDone_request? (found : b.port.request? tag = some r) (piece : b.piece? tag index = some p)
    (fits : p.direction = .read → outcome = .good → p.lba - r.lba + blocks.length ≤ r.buffer.length) :
    (b.recordDone tag index outcome blocks).port.request? tag = some (r.pieceEnded p index outcome blocks) := by
  have own : r.tag = tag := ArrayPort.request?_tag found
  unfold Bridge.recordDone
  rw [piece]
  dsimp only
  rw [Bridge.onRequest_request? _ _ _ _ (by exact fun _ => rfl), Bridge.onPiece_request?, found]
  have buffer : (if p.direction = .read ∧ outcome = .good then spliceAt r.buffer (p.lba - r.lba) blocks else r.buffer)
      = if p.direction = .read ∧ outcome = .good
        then r.buffer.take (p.lba - r.lba) ++ blocks ++ r.buffer.drop (p.lba - r.lba + blocks.length) else r.buffer := by
    split
    · rename_i reads
      exact spliceAt_of_fits (fits reads.1 reads.2)
    · rfl
  simp only [Option.map_some, own, if_true, Request.pieceEnded, beq_iff_eq, Bool.and_eq_true, buffer]

theorem Bridge.testRequest_unfinished {cfg : Settings} (found : b.port.request? tag = some r)
    (left : ∃ q ∈ r.pieces, q.state ≠ .done) : b.testRequest cfg tag = b := by
  obtain ⟨q, hq, waits⟩ := left
  have unfinished : r.finished = false := List.all_eq_false.2 ⟨q, hq, by simpa using waits⟩
  simp [Bridge.testRequest, found, unfinished]

/-- A request whose pieces are all DONE completes, and then F and the FLUSH entries are tested. -/
theorem Bridge.testRequest_finished {cfg : Settings} (found : b.port.request? tag = some r)
    (all : ∀ q ∈ r.pieces, q.state = .done) :
    b.testRequest cfg tag = ((b.sendCompletion r).foregroundChanged cfg).testFlushes := by
  have finished : r.finished = true := List.all_eq_true.2 fun q hq => by simpa using all q hq
  simp [Bridge.testRequest, found, finished]

end

/-! The end of a piece beyond the array port (R55, R63, R64, R117). -/

/-- An ended piece out of the current-layout set, the count of its slot lowered: before the gate is tested. -/
def Bridge.pieceOut (b : Bridge) (tag index : Nat) (slot : Option SlotId) : Bridge :=
  { b with
    router := { b.router with inCurrent := b.router.inCurrent.filter (fun e => ¬(e.tag = tag ∧ e.index = index)) }
    engine := match slot with
      | none => b.engine
      | some i => b.engine.setSlot i { b.engine.slot i with pending := (b.engine.slot i).pending - 1 } }

theorem Bridge.routerDone_eq (b : Bridge) (tag index : Nat) (slot : Option SlotId) :
    b.routerDone tag index slot = (b.pieceOut tag index slot).testGate := by
  have entries : (fun e : RowPiece => !(e.tag == tag && e.index == index))
      = fun e => Decidable.decide ¬(e.tag = tag ∧ e.index = index) := by
    funext e
    simp [beq_eq_decide]
  unfold Bridge.routerDone Bridge.pieceOut
  rw [entries]
  cases slot <;> rfl

theorem Bridge.testGate_only (b : Bridge) :
    b.testGate = { b with router := { b.router with gate := b.testGate.router.gate }, work := b.testGate.work } := by
  unfold Bridge.testGate
  split
  · rfl
  · split <;> rfl

theorem Bridge.finishPiece_eq {cfg : Settings} {b : Bridge} {tag index : Nat} {p : Piece}
    (piece : b.piece? tag index = some p) (outcome : PieceOutcome) (blocks : List Block) :
    b.finishPiece cfg tag index outcome blocks
      = ((((b.recordDone tag index outcome blocks).testRequest cfg tag).pieceOut tag index p.slot).testGate).endService
          (.piece tag index) := by
  unfold Bridge.finishPiece
  rw [piece]
  dsimp only
  rw [Bridge.routerDone_eq]

/-- What the end of a piece does beyond the array port leaves the port, the pacing mode, the members and the ports. -/
theorem Bridge.pieceOut_rest (b : Bridge) (tag index : Nat) (slot : Option SlotId) (w : Work) :
    let out := b.pieceOut tag index slot
    let after := out.testGate.endService w
    after.port = b.port ∧ after.sent = b.sent ∧ after.pacing = b.pacing ∧ after.members = b.members
      ∧ after.shelves = b.shelves ∧ after.engine = out.engine ∧ after.router.inCurrent = out.router.inCurrent := by
  dsimp only
  rw [Bridge.endService_only, Bridge.testGate_only]
  exact ⟨rfl, rfl, rfl, rfl, rfl, rfl, rfl⟩

/-! The completion of a request with its last piece. -/

/-- The table, the frame and F when a READ or WRITE with its last piece ended has left the table. -/
theorem Bridge.sendCompletion_counted {cfg : Settings} {b b₀ : Bridge} {tag : Nat} {r : Request}
    (found : b.port.request? tag = some r)
    (others : b.port.table.filter (fun x => x.tag != tag) = b₀.port.table.filter (fun x => x.tag != tag))
    (pacing : b.pacing = b₀.pacing) :
    let done := (b.sendCompletion r).foregroundChanged cfg
    let f := (b₀.port.table.filter (fun x => x.tag ≠ tag ∧ (x.kind = .read ∨ x.kind = .write))).length
    done.port.table = b₀.port.table.filter (fun x => x.tag ≠ tag) ∧ done.port.foreground = f
      ∧ done.pacing = pacingAfter cfg b₀.pacing f
      ∧ done.sent = b.sent ++ [.arrayFrame [BitVec.ofNat 8 tag, if r.status = .lost then 0x04 else 0x00]
          (if r.kind = .read ∧ r.status = .good then r.buffer else [])] := by
  have own := ArrayPort.request?_tag found
  have table : (b.sendCompletion r).port.table = b₀.port.table.filter (fun x => x.tag ≠ tag) := by
    have left : (b.sendCompletion r).port.table = b.port.table.filter (fun x => x.tag != r.tag) := rfl
    rw [left, own, others]
    exact List.filter_congr fun x _ => by simp [bne, beq_eq_decide]
  have count : foregroundCount (b.sendCompletion r).port.table
      = (b₀.port.table.filter (fun x => x.tag ≠ tag ∧ (x.kind = .read ∨ x.kind = .write))).length := by
    rw [table, foregroundCount, List.filter_filter]
    congr 1
    refine List.filter_congr fun x _ => ?_
    cases x.kind <;> simp [RequestKind.counts]
  have frame : completionFrame (BitVec.ofNat 8 r.tag) r.status.status
        (if r.kind == .read && r.status == .good then r.buffer else [])
      = .arrayFrame [BitVec.ofNat 8 tag, if r.status = .lost then 0x04 else 0x00]
          (if r.kind = .read ∧ r.status = .good then r.buffer else []) := by
    rw [own]
    cases r.status <;> simp [completionFrame, PieceOutcome.status, Status.code]
  refine ⟨table, count, ?_, congrArg (fun o => b.sent ++ [o]) frame⟩
  rw [Bridge.foregroundChanged_pacing, count, ← pacing]
  rfl

/-- The array port records the end of a piece and tests its request: nothing beyond the port, what is sent and the pacing
mode changes. -/
theorem Bridge.recordDone_testRequest_only (cfg : Settings) (b : Bridge) (tag index : Nat) (outcome : PieceOutcome)
    (blocks : List Block) :
    let done := (b.recordDone tag index outcome blocks).testRequest cfg tag
    done = { b with port := done.port, sent := done.sent, pacing := done.pacing } := by
  dsimp only
  rw [Bridge.testRequest_only, (b.recordDone_only tag index outcome blocks).1]

/-- The completion of a request with its last piece: what it leaves in the table, and what it sends (R35, R37, R41). -/
theorem Bridge.testRequest_completes {cfg : Settings} {b b₀ : Bridge} {tag : Nat} {r : Request}
    (found : b.port.request? tag = some r) (all : ∀ q ∈ r.pieces, q.state = .done)
    (others : b.port.table.filter (fun x => x.tag != tag) = b₀.port.table.filter (fun x => x.tag != tag))
    (pacing : b.pacing = b₀.pacing) :
    let done := b.testRequest cfg tag
    let f := (b₀.port.table.filter (fun x => x.tag ≠ tag ∧ (x.kind = .read ∨ x.kind = .write))).length
    let rest := b₀.port.table.filter (fun x => x.tag ≠ tag)
    done.port.request? tag = none ∧ done.port.foreground = f ∧ done.pacing = pacingAfter cfg b₀.pacing f
      ∧ ∃ more : List Output,
          done.sent = b.sent ++ .arrayFrame [BitVec.ofNat 8 tag, if r.status = .lost then 0x04 else 0x00]
              (if r.kind = .read ∧ r.status = .good then r.buffer else []) :: more
            ∧ (∀ x ∈ more, ∃ w ∈ b₀.port.table, w.kind = .flush ∧ x = w.flushFrame)
            ∧ (ordered rest → more = (rest.takeWhile (fun w => w.kind = .flush)).map Request.flushFrame
                ∧ done.port.table = rest.dropWhile (fun w => w.kind = .flush)) := by
  intro done f rest
  obtain ⟨table, count, mode, sent⟩ := Bridge.sendCompletion_counted (cfg := cfg) found others pacing
  obtain ⟨⟨more, frames, each⟩, kept, foreground⟩ := ((b.sendCompletion r).foregroundChanged cfg).testFlushes_sends
  have tested : done = ((b.sendCompletion r).foregroundChanged cfg).testFlushes := Bridge.testRequest_finished found all
  have inside : ∀ x ∈ ((b.sendCompletion r).foregroundChanged cfg).port.table, x ∈ b₀.port.table ∧ x.tag ≠ tag :=
    fun x hx => by
      rw [table] at hx
      exact ⟨List.mem_of_mem_filter hx, by simpa using (List.mem_filter.1 hx).2⟩
  rw [tested]
  refine ⟨List.find?_eq_none.2 fun x hx same => (inside x (kept x hx)).2 (by simpa using same), foreground.trans count, ?_,
    more, ?_, fun x hx => ?_, fun order => ?_⟩
  · rw [Bridge.testFlushes_only]
    exact mode
  · rw [frames, sent]
    simp
  · obtain ⟨w, hw, flush, frame⟩ := each x hx
    exact ⟨w, (inside w hw).1, flush, frame⟩
  · obtain ⟨sent', left⟩ := Bridge.testFlushes_ordered table order
    exact ⟨List.append_cancel_left (frames.symm.trans sent'), left⟩

/-- Settles O16. A FLUSH by whether something earlier stands in the table; the end of a piece by whether it was the last of
its request, everything beyond the array port being the same in both cases. -/
theorem requestsCompleteOrWait : Obligations.RequestsCompleteOrWait := by
  refine ⟨fun h extra s passed => ⟨fun empty => ?_, fun earlier others => ?_⟩,
    fun cfg b tag index r p outcome blocks found piece kind fits => ?_⟩
  · rw [exec_flush extra passed, Bridge.flush_completes (b := s.eventBridge) h empty, State.eventBridge_sent]
    simp only [State.eventBridge, List.nil_append]
  · rw [exec_flush extra passed, Bridge.flush_waits (b := s.eventBridge) (State.tag_free passed) earlier others]
    rfl
  intro o ended f b'
  obtain ⟨only, others⟩ := b.recordDone_only tag index outcome blocks
  have found' : (b.recordDone tag index outcome blocks).port.request? tag = some ended :=
    Bridge.recordDone_request? found piece fits
  have done := b.recordDone_testRequest_only cfg tag index outcome blocks
  have beyond := ((b.recordDone tag index outcome blocks).testRequest cfg tag).pieceOut_rest tag index p.slot
    (.piece tag index)
  dsimp only at done beyond
  rw [← Bridge.finishPiece_eq piece] at beyond
  obtain ⟨port, sent, pacing, members, shelves, engine, inCurrent⟩ := beyond
  have out : ((b.recordDone tag index outcome blocks).testRequest cfg tag).pieceOut tag index p.slot
      = { b with
          port := b'.port, pacing := b'.pacing, sent := b'.sent
          router := { b.router with
            inCurrent := b.router.inCurrent.filter (fun e => ¬(e.tag = tag ∧ e.index = index)) }
          engine := match p.slot with
            | none => b.engine
            | some i => b.engine.setSlot i { b.engine.slot i with pending := (b.engine.slot i).pending - 1 } } := by
    rw [show b'.port = _ from port, show b'.sent = _ from sent, show b'.pacing = _ from pacing, done]
    rfl
  refine ⟨fun left => ?unfinished, fun all => ?finished, inCurrent.trans (congrArg (·.router.inCurrent) out), ?pending,
    members.trans (by rw [done]), shelves.trans (by rw [done]), _,
    Bridge.finishPiece_eq piece outcome blocks, out⟩
  case unfinished =>
    have tested := Bridge.testRequest_unfinished (cfg := cfg) found' left
    rw [show b'.port = _ from port, show b'.sent = _ from sent, show b'.pacing = _ from pacing, tested]
    refine ⟨found', ?_, ?_, ?_⟩
    all_goals rw [only]
  case finished =>
    have completes := Bridge.testRequest_completes (cfg := cfg) (b₀ := b) found' all others (by rw [only])
    obtain ⟨gone, count, mode, more, frames, each, order⟩ := completes
    rw [show b'.port = _ from port, show b'.sent = _ from sent, show b'.pacing = _ from pacing]
    have before : (b.recordDone tag index outcome blocks).sent = b.sent := by rw [only]
    refine ⟨gone, count, mode, more, before ▸ frames, each, fun tags arrivals => order ⟨?_, ?_⟩⟩
    · exact tags.sublist (List.filter_sublist.map _)
    · exact arrivals.sublist List.filter_sublist
  case pending =>
    intro i slot
    have own : b'.engine = b.engine.setSlot i { b.engine.slot i with pending := (b.engine.slot i).pending - 1 } := by
      rw [show b'.engine = _ from engine, out, slot]
    rw [own, Engine.setSlot_slot]

end Sys2Proof.Machine
end

section
/-! PROOFS. Arrival numbers and the overlap order (R28, R31 to R33), what is dispatched next, and the course of an event. -/

namespace Sys2Proof.Machine

open Sys2Proof

/-! Arrival numbers (R28). -/

/-- A number is later than another exactly when the distance to it goes more than half the way round. -/
theorem arrivalEarlier_back_iff (a b : BitVec 32) :
    arrivalEarlier b a = true ↔ 2 ^ 31 + 1 ≤ (b - a).toNat ∧ (b - a).toNat ≤ 2 ^ 32 - 1 := by
  rw [arrivalEarlier_iff]
  simp only [BitVec.toNat_sub]
  omega

theorem arrivalEarlier_add (a : BitVec 32) {n : Nat} (low : 1 ≤ n) (high : n < 2 ^ 31) :
    arrivalEarlier a (a + BitVec.ofNat 32 n) = true := by
  rw [arrivalEarlier_iff, add_sub_cancel_left, BitVec.toNat_ofNat]
  omega

/-! The overlap of two runs of LBAs (R31). -/

theorem rangesOverlap_iff (lba count lba' count' : Nat) :
    rangesOverlap lba count lba' count' = true ↔ ∃ x, lba ≤ x ∧ x < lba + count ∧ lba' ≤ x ∧ x < lba' + count' := by
  simp only [rangesOverlap, Bool.and_eq_true, decide_eq_true_eq]
  constructor
  · intro h
    exact ⟨max lba lba', by omega⟩
  · rintro ⟨x, h⟩
    omega

theorem ArrayPort.heldByPiece_iff (a : ArrayPort) (arrival : BitVec 32) (lba count : Nat) (write : Bool) :
    a.heldByPiece arrival lba count write = true ↔
      ∃ r ∈ a.table, arrivalEarlier r.arrival arrival = true ∧ ∃ q ∈ r.pieces, q.state ≠ .done
        ∧ (write = true ∨ q.direction = .write) ∧ ∃ x, q.lba ≤ x ∧ x < q.lba + q.count ∧ lba ≤ x ∧ x < lba + count := by
  simp only [ArrayPort.heldByPiece, Piece.outstanding, List.any_eq_true, Bool.and_eq_true, Bool.or_eq_true, bne_iff_ne,
    beq_iff_eq, rangesOverlap_iff, and_assoc]

theorem ArrayPort.heldByGather_iff (a : ArrayPort) (chunk : Nat) (arrival : BitVec 32) (lba count : Nat) :
    a.heldByGather chunk arrival lba count = true ↔
      ∃ g ∈ a.gathers, arrivalEarlier g.arrival arrival = true
        ∧ ∃ x, g.chunk * chunk ≤ x ∧ x < (g.chunk + 1) * chunk ∧ lba ≤ x ∧ x < lba + count := by
  simp only [ArrayPort.heldByGather, List.any_eq_true, Bool.and_eq_true, rangesOverlap_iff, Nat.succ_mul]

theorem Bridge.pieceFree_iff (b : Bridge) (arrival : BitVec 32) (p : Piece) :
    b.pieceFree arrival p = true ↔
      p.state = .waiting
        ∧ (¬∃ r ∈ b.port.table, arrivalEarlier r.arrival arrival = true ∧ ∃ q ∈ r.pieces, q.state ≠ .done
            ∧ (p.direction = .write ∨ q.direction = .write)
            ∧ ∃ x, q.lba ≤ x ∧ x < q.lba + q.count ∧ p.lba ≤ x ∧ x < p.lba + p.count)
        ∧ ¬(p.direction = .write ∧ ∃ g ∈ b.port.gathers, arrivalEarlier g.arrival arrival = true
            ∧ ∃ x, g.chunk * b.engine.chunk ≤ x ∧ x < (g.chunk + 1) * b.engine.chunk
                ∧ p.lba ≤ x ∧ x < p.lba + p.count) := by
  simp only [Bridge.pieceFree, Bool.and_eq_true, Bool.not_eq_true', Bool.eq_false_iff, beq_iff_eq, ne_eq, and_assoc,
    ArrayPort.heldByPiece_iff, ArrayPort.heldByGather_iff]

theorem Bridge.gatherFree_iff (b : Bridge) (g : Gather) :
    b.gatherFree g = true ↔
      g.released = false
        ∧ ¬∃ r ∈ b.port.table, arrivalEarlier r.arrival g.arrival = true ∧ ∃ q ∈ r.pieces, q.state ≠ .done
            ∧ q.direction = .write
            ∧ ∃ x, q.lba ≤ x ∧ x < q.lba + q.count
                ∧ g.chunk * b.engine.chunk ≤ x ∧ x < (g.chunk + 1) * b.engine.chunk := by
  have held := ArrayPort.heldByPiece_iff b.port g.arrival (g.chunk * b.engine.chunk) b.engine.chunk false
  simp only [Bool.false_eq_true, false_or, ← Nat.succ_mul] at held
  rw [Bridge.gatherFree, Bool.and_eq_true, Bool.not_eq_true', Bool.not_eq_true',
    Bool.eq_false_iff (b := b.port.heldByPiece _ _ _ _), ne_eq, held]

/-! What is dispatched next (R33). -/

/-- The first request with a piece that may go, and in it the first such piece. -/
theorem Bridge.nextPiece_eq {b : Bridge} {earlier later : List Request} {r : Request} {before behind : List Piece}
    {p : Piece} (table : b.port.table = earlier ++ r :: later) (pieces : r.pieces = before ++ p :: behind)
    (free : b.pieceFree r.arrival p = true) (held : ∀ q ∈ before, b.pieceFree r.arrival q = false)
    (none : ∀ x ∈ earlier, ∀ q ∈ x.pieces, b.pieceFree x.arrival q = false) :
    b.nextPiece = some (r.arrival, r.tag, p.index) := by
  have first : r.pieces.find? (b.pieceFree r.arrival) = some p := by
    rw [pieces, List.find?_append, List.find?_eq_none.2 fun q hq => by simp [held q hq], Option.none_or,
      List.find?_cons_of_pos free]
  have skipped : earlier.findSome? (fun r =>
      (r.pieces.find? (b.pieceFree r.arrival)).map (fun p => (r.arrival, r.tag, p.index))) = .none := by
    refine List.findSome?_eq_none_iff.2 fun x hx => ?_
    rw [List.find?_eq_none.2 fun q hq => by simp [none x hx q hq]]
    rfl
  rw [Bridge.nextPiece, table, List.findSome?_append, skipped, Option.none_or, List.findSome?_cons, first]
  rfl

theorem Bridge.nextPiece_eq_none_iff (b : Bridge) :
    b.nextPiece = none ↔ ∀ r ∈ b.port.table, ∀ p ∈ r.pieces, b.pieceFree r.arrival p = false := by
  simp only [Bridge.nextPiece, List.findSome?_eq_none_iff, Option.map_eq_none_iff, List.find?_eq_none, Bool.not_eq_true]

/-- A piece that goes next is one of the table that may go. -/
theorem Bridge.nextPiece_some {b : Bridge} {arrival : BitVec 32} {tag index : Nat}
    (h : b.nextPiece = some (arrival, tag, index)) :
    ∃ r ∈ b.port.table, r.arrival = arrival ∧ ∃ p ∈ r.pieces, b.pieceFree r.arrival p = true := by
  obtain ⟨r, hr, found⟩ := List.exists_of_findSome?_eq_some h
  obtain ⟨p, hp, same⟩ := Option.map_eq_some_iff.1 found
  exact ⟨r, hr, congrArg Prod.fst same, p, List.mem_of_find?_eq_some hp, List.find?_some hp⟩

theorem Bridge.nextGather_eq_none_iff (b : Bridge) :
    b.nextGather = none ↔ ∀ g ∈ b.port.gathers, b.gatherFree g = false := by
  simp only [Bridge.nextGather, List.find?_eq_none, Bool.not_eq_true]

theorem Bridge.nextGather_eq {b : Bridge} {earlier later : List Gather} {g : Gather}
    (gathers : b.port.gathers = earlier ++ g :: later) (free : b.gatherFree g = true)
    (none : ∀ x ∈ earlier, b.gatherFree x = false) : b.nextGather = some g := by
  rw [Bridge.nextGather, gathers, List.find?_append, List.find?_eq_none.2 fun q hq => by simp [none q hq],
    Option.none_or, List.find?_cons_of_pos free]

theorem Bridge.dispatchNext_eq_none_iff (b : Bridge) : b.dispatchNext = none ↔ b.nextPiece = none ∧ b.nextGather = none := by
  unfold Bridge.dispatchNext
  rcases b.nextPiece with _ | ⟨arrival, tag, index⟩ <;> rcases b.nextGather with _ | g
  · simp
  · simp
  · simp
  · dsimp only
    split <;> simp

/-- A piece goes next when no gather read that may be released is earlier. -/
theorem Bridge.dispatchNext_piece {b : Bridge} {arrival : BitVec 32} {tag index : Nat}
    (piece : b.nextPiece = some (arrival, tag, index))
    (later : ∀ g ∈ b.port.gathers, b.gatherFree g = true → arrivalEarlier g.arrival arrival = false) :
    b.dispatchNext = some (b.dispatchPiece tag index) := by
  unfold Bridge.dispatchNext
  rw [piece]
  cases found : b.nextGather with
  | none => rfl
  | some g =>
    have after := later g (List.mem_of_find?_eq_some found) (List.find?_some found)
    dsimp only
    rw [after, if_neg Bool.false_ne_true]

/-- A gather read goes next when it is earlier than every piece that may go. -/
theorem Bridge.dispatchNext_gather {b : Bridge} {g : Gather} (gather : b.nextGather = some g)
    (earlier : ∀ r ∈ b.port.table, ∀ p ∈ r.pieces, b.pieceFree r.arrival p = true →
      arrivalEarlier g.arrival r.arrival = true) : b.dispatchNext = some (b.releaseGather g) := by
  unfold Bridge.dispatchNext
  rw [gather]
  cases found : b.nextPiece with
  | none => rfl
  | some next =>
    obtain ⟨arrival, tag, index⟩ := next
    obtain ⟨r, hr, rfl, p, hp, free⟩ := Bridge.nextPiece_some found
    dsimp only
    rw [if_pos (earlier r hr p hp free)]

/-! The course of an event. -/

theorem Bridge.tick_work {cfg : Settings} {b : Bridge} {a : Action} {rest : List Action} (work : b.work = a :: rest) :
    b.tick cfg = some (b.performFirst cfg a rest) := by
  simp only [Bridge.tick, work]

theorem Bridge.tick_pump {cfg : Settings} {b x : Bridge} (idle : b.work = []) (pump : b.pump cfg = some x) :
    b.tick cfg = some x := by
  simp only [Bridge.tick, idle, pump]

theorem Bridge.tick_dispatch {cfg : Settings} {b x : Bridge} (idle : b.work = []) (rest : b.pump cfg = none)
    (dispatch : b.dispatchNext = some x) : b.tick cfg = some x := by
  simp only [Bridge.tick, idle, rest, dispatch]

theorem Bridge.tick_advance {cfg : Settings} {b : Bridge} (idle : b.work = []) (rest : b.pump cfg = none)
    (none : b.dispatchNext = none) : b.tick cfg = b.engineAdvance := by
  simp only [Bridge.tick, idle, rest, none]

theorem Bridge.judgeWork_of_service {b : Bridge} {w : Work} {s : Service} (h : b.service? w = some s) :
    b.judgeWork w = b.judgeStep s := by
  simp only [Bridge.judgeWork, h]

theorem Bridge.decideAgain_of_service {b : Bridge} {w : Work} {s : Service} (h : b.service? w = some s)
    (stays : s.withdrawn = false) : b.decideAgain w = b.decideAndBegin s := by
  simp [Bridge.decideAgain, h, stays]

/-- Settles O17, clause by clause: the order of arrival numbers, what holds a piece or a gather read, the order of the things
that happen, and what is dispatched. -/
theorem arrivalOrderAndDispatch : Obligations.ArrivalOrderAndDispatch := by
  refine ⟨fun a b => ⟨arrivalEarlier_iff a b, arrivalEarlier_back_iff a b⟩, fun a n => arrivalEarlier_add a, rfl,
    Bridge.pieceFree_iff, Bridge.gatherFree_iff, fun cfg b a rest work => Bridge.tick_work work,
    fun cfg b idle => ⟨fun x => Bridge.tick_pump idle, fun x => Bridge.tick_dispatch idle, Bridge.tick_advance idle⟩,
    fun cfg b => Bridge.settleWithin_course cfg _ b,
    fun cfg b => ⟨fun _ _ => rfl, fun _ _ _ _ => rfl, fun _ _ => rfl, fun w s => Bridge.judgeWork_of_service,
      fun w s => Bridge.decideAgain_of_service, fun _ => rfl, fun _ => rfl, rfl, rfl⟩,
    fun b => ⟨?_, ?_, ?_⟩⟩
  · rw [b.dispatchNext_eq_none_iff, b.nextPiece_eq_none_iff, b.nextGather_eq_none_iff]
  · exact fun earlier later r before behind p table pieces free held none gathers =>
      Bridge.dispatchNext_piece (Bridge.nextPiece_eq table pieces free held none) gathers
  · exact fun earlier later g gathers free none pieces =>
      Bridge.dispatchNext_gather (Bridge.nextGather_eq gathers free none) pieces

end Sys2Proof.Machine
end

section
/-! PROOFS. The load monitor, the grants of the shelf ports (R135, R153, R156, R158), and the answers of drives (R134, R141,
R142). -/

namespace Sys2Proof.Machine

open Sys2Proof

/-! The pacing mode and the class of a grant. -/

theorem RequestKind.counts_iff (k : RequestKind) : k.counts = true ↔ k = .read ∨ k = .write := by
  cases k <;> simp [RequestKind.counts]

theorem foregroundCount_eq (table : List Request) :
    foregroundCount table = (table.filter (fun r => r.kind = .read ∨ r.kind = .write)).length := by
  refine congrArg List.length (List.filter_congr fun r _ => ?_)
  rw [Bool.eq_iff_iff, decide_eq_true_eq]
  exact r.kind.counts_iff

theorem ShelfPort.starved_iff (cfg : Settings) (p : ShelfPort) :
    p.starved cfg = true ↔ ∃ elapsed, p.starvation = some elapsed ∧ cfg.starveLimit ≤ elapsed := by
  cases h : p.starvation <;> simp [ShelfPort.starved, h]

section
variable {cfg : Settings} {mode : Pacing} {p : ShelfPort}

theorem grantClass_empty (foreground : p.foreground = []) (migration : p.migration = []) : grantClass cfg mode p = none := by
  simp [grantClass, foreground, migration]

theorem grantClass_foreground (foreground : p.foreground ≠ []) (migration : p.migration = []) :
    grantClass cfg mode p = some .foreground := by
  simp [grantClass, List.isEmpty_eq_false_iff.2 foreground, migration]

theorem grantClass_migration (foreground : p.foreground = []) (migration : p.migration ≠ []) :
    grantClass cfg mode p = some .migration := by
  simp [grantClass, foreground, List.isEmpty_eq_false_iff.2 migration]

/-- With both queues holding commands the mode decides (R158). -/
theorem grantClass_both (foreground : p.foreground ≠ []) (migration : p.migration ≠ []) :
    grantClass cfg .normal p = (if p.grants < cfg.weight then some .foreground else some .migration)
      ∧ grantClass cfg .yield p = if p.starved cfg then some .migration else some .foreground := by
  simp [grantClass, List.isEmpty_eq_false_iff.2 foreground, List.isEmpty_eq_false_iff.2 migration]

end

/-- Settles O18: the two tables, row by row. -/
theorem pacingAndGrantTables : Obligations.PacingAndGrantTables := by
  refine ⟨fun cfg b => ?_, fun cfg mode p => ?_⟩
  · intro f
    have count : foregroundCount b.port.table = f := foregroundCount_eq _
    have mode : (b.foregroundChanged cfg).pacing = pacingAfter cfg b.pacing f := by
      rw [Bridge.foregroundChanged_pacing, count]
    refine ⟨count, fun before test => ?_, fun before test => ?_, fun before test => ?_, fun before test => ?_,
      fun range => ?_⟩
    · rw [mode, before]
      exact if_pos test
    · rw [mode, before]
      exact if_neg (Nat.not_le.2 test)
    · rw [mode, before]
      exact if_pos test
    · rw [mode, before]
      exact if_neg (Nat.not_le.2 test)
    · have below := (Settings.yieldsInRange_of_inRange range).2.2
      omega
  · intro runOut
    refine ⟨grantClass_empty, grantClass_foreground, grantClass_migration, ?_, ?_, ?_, ?_⟩
    · rintro foreground migration rfl few
      rw [(grantClass_both foreground migration).1, if_pos few]
    · rintro foreground migration rfl enough
      rw [(grantClass_both foreground migration).1, if_neg (Nat.not_lt.2 enough)]
    · rintro foreground migration rfl out
      rw [(grantClass_both foreground migration).2, if_pos ((p.starved_iff cfg).2 out)]
    · rintro foreground migration rfl out
      rw [(grantClass_both foreground migration).2, if_neg (mt (p.starved_iff cfg).1 out)]

/-! A grant (R135). -/

/-- A table with fewer entries than there are tags leaves one free, and the lowest such tag is given. -/
theorem lowestFree_spec {table : List TagEntry} {bound : Nat} (room : table.length < bound) :
    lowestFree table bound < bound ∧ (∀ e ∈ table, e.tag ≠ lowestFree table bound)
      ∧ ∀ t < lowestFree table bound, ∃ e ∈ table, e.tag = t := by
  cases found : (List.range bound).find? (fun t => !table.any (fun e => e.tag == t)) with
  | none =>
    have taken : List.range bound ⊆ table.map TagEntry.tag := fun t ht => by
      have test := List.find?_eq_none.1 found t ht
      simpa using test
    have many := (List.nodup_range.subperm taken).length_le
    rw [List.length_range, List.length_map] at many
    omega
  | some tag =>
    obtain ⟨free, inside, below⟩ := List.find?_range_eq_some.1 found
    rw [lowestFree, found, Option.getD_some]
    refine ⟨List.mem_range.1 inside, fun e he same => ?_, fun t ht => ?_⟩
    · have none : ∀ e ∈ table, e.tag ≠ tag := by simpa using free
      exact none e he same
    · simpa using below t ht

theorem insertEntry_perm (e : TagEntry) (table : List TagEntry) : (insertEntry e table).Perm (e :: table) := by
  induction table with
  | nil => exact .refl _
  | cons x xs ih =>
    unfold insertEntry
    split
    · exact .refl _
    · exact (ih.cons x).trans (.swap e x xs)

/-- The class of a grant names a queue that holds a command. -/
theorem grantClass_head {cfg : Settings} {mode : Pacing} {p : ShelfPort} {cls : CommandClass}
    (h : grantClass cfg mode p = some cls) : ∃ c rest, p.queue cls = c :: rest := by
  refine List.exists_cons_of_ne_nil fun empty => ?_
  cases foreground : p.foreground <;> cases migration : p.migration <;> cases cls <;>
    simp_all [grantClass, ShelfPort.queue]

theorem ShelfPort.takeHead_eq {p : ShelfPort} {cls : CommandClass} {c : DriveCommand} {rest : List DriveCommand}
    (h : p.queue cls = c :: rest) :
    p.takeHead cls = some (c, match cls with
      | .foreground => { p with foreground := rest }
      | .migration => { p with migration := rest }) := by
  cases cls
  · have h : p.foreground = c :: rest := h
    simp only [ShelfPort.takeHead, h]
  · have h : p.migration = c :: rest := h
    simp only [ShelfPort.takeHead, h]

/-- The port that a grant leaves. -/
def ShelfPort.afterGrant (cfg : Settings) (p : ShelfPort) (cls : CommandClass) (c : DriveCommand)
    (rest : List DriveCommand) : ShelfPort :=
  let entry : TagEntry :=
    { tag := lowestFree p.table Config.driveTags, command := c, cls := cls, attempt := 1, timer := cfg.cmdTimeout }
  match cls with
  | .foreground =>
      { p with foreground := rest, table := insertEntry entry p.table, grants := min (p.grants + 1) cfg.weight }
  | .migration =>
      { p with
        migration := rest, table := insertEntry entry p.table, grants := 0
        starvation := if rest.isEmpty then none else some 0 }

/-- A port with a free tag and a class to grant makes its grant. -/
theorem Bridge.grantAt_eq {cfg : Settings} {b : Bridge} {port : Nat} {cls : CommandClass} {c : DriveCommand}
    {rest : List DriveCommand} (room : (b.shelf port).table.length < Config.driveTags)
    (own : grantClass cfg b.pacing (b.shelf port) = some cls) (head : (b.shelf port).queue cls = c :: rest) :
    b.grantAt cfg port =
      some ((b.onShelf port (fun _ => (b.shelf port).afterGrant cfg cls c rest)).send
        (driveFrame (lowestFree (b.shelf port).table Config.driveTags) c)) := by
  unfold Bridge.grantAt
  dsimp only
  rw [if_pos room, own]
  dsimp only
  rw [ShelfPort.takeHead_eq head]
  cases cls <;> rfl

/-- What a grant needs, and what it does. -/
theorem Bridge.grantAt_cases (cfg : Settings) (b : Bridge) (port : Nat) :
    (b.grantAt cfg port = none
        ∧ ¬((b.shelf port).table.length < Config.driveTags
          ∧ ((b.shelf port).foreground ≠ [] ∨ (b.shelf port).migration ≠ [])))
      ∨ ∃ cls c rest, (b.shelf port).table.length < Config.driveTags
          ∧ grantClass cfg b.pacing (b.shelf port) = some cls ∧ (b.shelf port).queue cls = c :: rest
          ∧ b.grantAt cfg port =
            some ((b.onShelf port (fun _ => (b.shelf port).afterGrant cfg cls c rest)).send
              (driveFrame (lowestFree (b.shelf port).table Config.driveTags) c)) := by
  by_cases room : (b.shelf port).table.length < Config.driveTags
  · cases own : grantClass cfg b.pacing (b.shelf port) with
    | none =>
      refine .inl ⟨?_, fun holds => ?_⟩
      · unfold Bridge.grantAt
        dsimp only
        rw [if_pos room, own]
      · obtain ⟨-, holds⟩ := holds
        by_cases foreground : (b.shelf port).foreground = []
        · have migration := holds.resolve_left (absurd foreground)
          exact absurd ((grantClass_migration foreground migration).symm.trans own) (by simp)
        · by_cases migration : (b.shelf port).migration = []
          · exact absurd ((grantClass_foreground foreground migration).symm.trans own) (by simp)
          · cases mode : b.pacing
            · rw [mode, (grantClass_both foreground migration).1] at own
              split at own <;> simp at own
            · rw [mode, (grantClass_both foreground migration).2] at own
              split at own <;> simp at own
    | some cls =>
      obtain ⟨c, rest, head⟩ := grantClass_head own
      exact .inr ⟨cls, c, rest, room, own ▸ rfl, head, Bridge.grantAt_eq room own head⟩
  · refine .inl ⟨?_, fun holds => room holds.1⟩
    unfold Bridge.grantAt
    exact if_neg room

theorem driveFrame_eq (tag : Nat) (c : DriveCommand) :
    driveFrame tag c = .shelfFrame (c.member / 16)
      ([c.kind.code, BitVec.ofNat 8 tag, BitVec.ofNat 8 (c.member % 16)]
        ++ (List.range 6).map (fun i => BitVec.ofNat 8 (c.block / 256 ^ i)) ++ [BitVec.ofNat 8 c.count]) c.payload := by
  rw [driveFrame, leBytes_eq_map]
  rfl

/-- Settles O19: the frame byte by byte, when a port grants, and the port after its grant. -/
theorem grantTakesLowestFreeTag : Obligations.GrantTakesLowestFreeTag := by
  refine ⟨fun tag c => ?_, fun cfg b port => ?_, fun cfg b b' port exists_ granted => ?_⟩
  · rw [driveFrame_eq]
    cases c.kind <;> rfl
  · rcases b.grantAt_cases cfg port with ⟨none, cannot⟩ | ⟨cls, c, rest, room, -, head, granted⟩
    · have cannot : ¬((b.shelf port).table.length < 64
          ∧ ((b.shelf port).foreground ≠ [] ∨ (b.shelf port).migration ≠ [])) := cannot
      simpa [none] using cannot
    · refine ⟨fun _ => ⟨room, ?_⟩, fun _ => by rw [granted]; rfl⟩
      cases cls
      · exact .inl fun empty => by simp [ShelfPort.queue, empty] at head
      · exact .inr fun empty => by simp [ShelfPort.queue, empty] at head
  · rcases b.grantAt_cases cfg port with ⟨none, -⟩ | ⟨cls, c, rest, room, own, head, grants⟩
    · exact absurd (none.symm.trans granted) (by simp)
    obtain rfl := Option.some.inj (grants.symm.trans granted)
    obtain ⟨small, free, lowest⟩ := lowestFree_spec room
    have shelf : ((b.onShelf port (fun _ => (b.shelf port).afterGrant cfg cls c rest)).send
        (driveFrame (lowestFree (b.shelf port).table Config.driveTags) c)).shelf port
          = (b.shelf port).afterGrant cfg cls c rest := Bridge.onShelf_shelf exists_ _
    refine ⟨cls, c, lowestFree (b.shelf port).table Config.driveTags, room, own, ?_, small, free, lowest, ?_, rfl, ?_, ?_,
      fun q other => Bridge.onShelf_other other b _, rfl, rfl, rfl, rfl⟩
    all_goals rw [shelf]
    · cases cls <;> exact head
    · cases cls <;> exact insertEntry_perm _ _
    · rintro rfl
      exact ⟨rfl, rfl, rfl⟩
    · rintro rfl
      refine ⟨rfl, rfl, ?_⟩
      cases rest <;> simp [ShelfPort.afterGrant]

end Sys2Proof.Machine
end

section
/-! PROOFS. The answers of drives (R134, R141, R142) and the starvation timer of a port (R156). -/

namespace Sys2Proof.Machine

open Sys2Proof

/-! When an answer is taken (R134). -/

theorem Bridge.memberFailed_iff (b : Bridge) (m : Nat) :
    b.memberFailed m = true ↔ (b.member m).state = .failed ∨ (b.member m).state = .stale := by
  cases h : (b.member m).state <;> simp [Bridge.memberFailed, MemberState.isFailed, h]

theorem Bridge.memberOnline_iff (b : Bridge) (m : Nat) : b.memberOnline m = true ↔ (b.member m).state = .online := by
  simp [Bridge.memberOnline]

/-- An ONLINE member is neither FAILED nor STALE. -/
theorem Bridge.live_of_online {b : Bridge} {m : Nat} (online : b.memberOnline m = true) : b.memberFailed m = false := by
  rw [Bridge.memberFailed, (b.memberOnline_iff m).1 online]
  rfl

theorem exec_driveCompletion (port : Fin 6) (tag slot status : Byte) (body : Body) (s : State) :
    exec (.driveCompletion port tag slot status body) s =
      .next (s.withBridge (s.eventBridge.driveAnswer s.mgmt.settings port tag slot status body)) := rfl

theorem Bridge.takesAnswer_iff (b : Bridge) (e : TagEntry) (slot : Byte) :
    b.takesAnswer e slot = true ↔ slot.toNat = e.command.member % 16 ∧ b.memberFailed e.command.member = false := by
  rw [Bridge.takesAnswer, Bool.and_eq_true, beq_iff_eq, Bool.not_eq_true', slotOf]
  exact Iff.rfl

section
variable {cfg : Settings} {b : Bridge} {port : Nat} {tag slot : Byte} {e : TagEntry}

/-- An answer that the port takes runs with everything that follows. -/
theorem Bridge.driveAnswer_taken (status : Byte) (body : Body) (outstanding : b.tagEntry? port tag.toNat = some e)
    (fits : slot.toNat = e.command.member % 16) (live : b.memberFailed e.command.member = false) :
    b.driveAnswer cfg port tag slot status body = (b.answerTaken cfg port e status body).settle cfg := by
  unfold Bridge.driveAnswer
  rw [outstanding]
  exact if_pos ((b.takesAnswer_iff e slot).2 ⟨fits, live⟩)

theorem Bridge.driveAnswer_notOutstanding (status : Byte) (body : Body) (free : b.tagEntry? port tag.toNat = none) :
    b.driveAnswer cfg port tag slot status body = b := by
  unfold Bridge.driveAnswer
  rw [free]

theorem Bridge.driveAnswer_discarded (status : Byte) (body : Body) (outstanding : b.tagEntry? port tag.toNat = some e)
    (discards : b.takesAnswer e slot = false) : b.driveAnswer cfg port tag slot status body = b := by
  unfold Bridge.driveAnswer
  rw [outstanding]
  exact if_neg (by simp [discards])

end

/-- Settles O20: each of the four reasons fails a test of the port. -/
theorem answerDiscarded : Obligations.AnswerDiscarded := by
  intro port tag slot status body s reason
  rw [exec_driveCompletion]
  refine congrArg (fun b => Host.Outcome.next (s.withBridge b)) ?_
  rcases reason with free | ⟨e, outstanding, unfit⟩
  · exact Bridge.driveAnswer_notOutstanding (b := s.eventBridge) status body free
  · refine Bridge.driveAnswer_discarded (b := s.eventBridge) status body outstanding (Bool.eq_false_iff.2 fun takes => ?_)
    obtain ⟨fits, live⟩ := (Bridge.takesAnswer_iff s.eventBridge e slot).1 takes
    rcases unfit with wrong | failed
    · exact wrong fits
    · exact absurd ((Bridge.memberFailed_iff s.eventBridge e.command.member).2 failed) (by simp [live])

/-! How an answer is judged (R141, R142, R198). -/

section
variable {c : DriveCommand} {status : Byte} {body : Body}

theorem answerOf_fittingRead (read : c.kind = .dread) (good : status = 0x00) (count : body.blocks.length = c.count)
    (tail : body.tail = []) : answerOf c status body = .good := by
  simp [answerOf, read, good, count, tail]

theorem answerOf_write (write : c.kind = .dwrite) (good : status = 0x00) : answerOf c status body = .good := by
  simp [answerOf, write, good]

theorem answerOf_noSlot (none : status = 0x02) : answerOf c status body = .noSlot := by
  simp [answerOf, none]

theorem answerOf_media (media : status ≠ 0x00 ∧ status ≠ 0x02) : answerOf c status body = .media := by
  unfold answerOf
  rw [if_neg (by simpa using media.1), if_neg (by simpa using media.2)]

theorem answerOf_unfittingRead (read : c.kind = .dread) (good : status = 0x00)
    (unfit : body.blocks.length ≠ c.count ∨ body.tail ≠ []) : answerOf c status body = .media := by
  simpa [answerOf, read, good] using fun count => unfit.resolve_left (absurd count)

end

section
variable {cfg : Settings} {b : Bridge} {port : Nat} {e : TagEntry}

/-- The answer to a read or write goes by the member table, record reads of discovery apart. -/
theorem Bridge.answerTaken_judged (status : Byte) (body : Body) (kind : e.command.kind ≠ .dprobe)
    (own : ∀ odd, e.command.issuer ≠ .recordRead odd) :
    b.answerTaken cfg port e status body =
      b.judgeAnswer cfg port e (answerOf e.command status body)
        (if e.command.kind == .dread then body.blocks else []) := by
  unfold Bridge.answerTaken
  dsimp only
  split
  next probe => exact absurd probe kind
  all_goals
    split
    next odd record => exact absurd record (own odd)
    next => rfl

theorem Bridge.judgeAnswer_good (blocks : List Block) :
    b.judgeAnswer cfg port e .good blocks = (b.freeTag port e.tag).push [.deliver e.command (.good blocks)] := rfl

theorem Bridge.judgeAnswer_noSlot (blocks : List Block) : b.judgeAnswer cfg port e .noSlot blocks = b.failCommand port e := rfl

/-- A DMEDIA that does not fail the member goes to the command's issuer. -/
theorem Bridge.judgeAnswer_media (blocks : List Block) (read : e.command.kind = .dread)
    (below : ((b.raiseMedia e.command.member).member e.command.member).media < cfg.mediaLimit) :
    b.judgeAnswer cfg port e .media blocks =
      ((b.raiseMedia e.command.member).freeTag port e.tag).push [.deliver e.command .media] := by
  refine if_neg ?_
  simp [read, below]

/-- A DMEDIA to a write, or one that brings the media count to its limit, fails the command. -/
theorem Bridge.judgeAnswer_mediaFails (blocks : List Block)
    (fails : e.command.kind = .dwrite
      ∨ cfg.mediaLimit ≤ ((b.raiseMedia e.command.member).member e.command.member).media) :
    b.judgeAnswer cfg port e .media blocks = (b.raiseMedia e.command.member).failCommand port e := by
  refine if_pos ?_
  simpa using fails

theorem Bridge.failCommand_online (online : b.memberOnline e.command.member = true) :
    b.failCommand port e = b.declareFailed e.command.member := if_pos online

end

theorem Bridge.raiseMedia_member {b : Bridge} {m : Nat} (h : m < b.members.length) :
    (b.raiseMedia m).member m = { b.member m with media := min ((b.member m).media + 1) 255 } :=
  Bridge.onMember_member h _

theorem Bridge.raiseMedia_online {b : Bridge} {m : Nat} (online : b.memberOnline m = true) (h : m < b.members.length) :
    (b.raiseMedia m).memberOnline m = true := by
  rw [Bridge.memberOnline_iff, Bridge.raiseMedia_member h]
  exact (b.memberOnline_iff m).1 online

/-! How the issuers take an end of a command (R51, R77, R123 to R126). -/

theorem Bridge.push_nil (b : Bridge) : b.push [] = b := by
  simp [Bridge.push]

/-- A service that has a command ended keeps its outcome, and its step is judged after the last one. -/
theorem Bridge.stepCommandEnded_some {b : Bridge} {w : Work} {s : Service} (served : b.service? w = some s)
    (role : StepRole) (ending : Ending) :
    b.stepCommandEnded w role ending =
      (b.onService w (fun s =>
        { s with results := s.results ++ [(role, ending)], outstanding := s.outstanding - 1 })).push
        (if s.outstanding ≤ 1 then [.judgeStep w] else []) := by
  unfold Bridge.stepCommandEnded
  rw [served]
  dsimp only
  split
  · rfl
  · rw [Bridge.push_nil]
    rfl

theorem Bridge.stepCommandEnded_none {b : Bridge} {w : Work} (unserved : b.service? w = none) (role : StepRole)
    (ending : Ending) : b.stepCommandEnded w role ending = b := by
  unfold Bridge.stepCommandEnded
  rw [unserved]

section
variable {b : Bridge} {c : DriveCommand}

theorem Bridge.deliver_plainRead {tag index : Nat} (h : c.issuer = .plainRead tag index) (ending : Ending) :
    b.deliver c ending = b.plainReadEnded tag index ending := by
  rw [Bridge.deliver, h]

theorem Bridge.deliver_gather {arrival : BitVec 32} (h : c.issuer = .gather arrival) (ending : Ending) :
    b.deliver c ending = b.gatherEnded arrival ending := by
  rw [Bridge.deliver, h]

theorem Bridge.deliver_service {w : Work} {role : StepRole} (h : c.issuer = .service w role) (ending : Ending) :
    b.deliver c ending = b.stepCommandEnded w role ending := by
  rw [Bridge.deliver, h]

theorem Bridge.deliver_writeOut {i : SlotId} (h : c.issuer = .writeOut i) (ending : Ending) :
    b.deliver c ending = b.writeOutEnded i := by
  rw [Bridge.deliver, h]

theorem Bridge.deliver_stageWrite (h : c.issuer = .stageWrite) (ending : Ending) :
    b.deliver c ending = b.stageWriteEnded ending := by
  rw [Bridge.deliver, h]

theorem Bridge.deliver_checkpoint (h : c.issuer = .checkpoint) (ending : Ending) :
    b.deliver c ending = b.checkpointWriteEnded c.member ending := by
  rw [Bridge.deliver, h]

theorem Bridge.deliver_stageRead {position : Nat} (h : c.issuer = .stageRead position) (ending : Ending) :
    b.deliver c ending = b.stageReadEnded position ending := by
  rw [Bridge.deliver, h]

end

/-- Settles O21: the three outcomes of an answer, and how each issuer takes one. -/
theorem answerDelivered : Obligations.AnswerDelivered := by
  refine ⟨fun port tag slot status body s e outstanding fits live own => ?_, fun b c => ?_⟩
  · have taken : exec (.driveCompletion port tag slot status body) s = .next (s.withBridge
        ((s.eventBridge.answerTaken s.mgmt.settings port e status body).settle s.mgmt.settings)) :=
      congrArg (fun b => Host.Outcome.next (s.withBridge b))
        (Bridge.driveAnswer_taken (b := s.eventBridge) status body outstanding fits live)
    rw [taken]
    refine ⟨fun read good count tail => ?_, fun write good => ?_, fun read status_ shaped below => ?_⟩
    · rw [Bridge.answerTaken_judged (b := s.eventBridge) status body (by simp [read]) own,
        answerOf_fittingRead read good count tail, Bridge.judgeAnswer_good, read]
      rfl
    · rw [Bridge.answerTaken_judged (b := s.eventBridge) status body (by simp [write]) own, answerOf_write write good,
        Bridge.judgeAnswer_good, write]
      rfl
    · have media : answerOf e.command status body = .media :=
        status_.elim answerOf_media fun unfit => answerOf_unfittingRead read unfit.1 unfit.2
      have raised : (s.eventBridge.raiseMedia e.command.member).member e.command.member =
          { s.bridge.member e.command.member with
            media := min ((s.bridge.member e.command.member).media + 1) 255 } :=
        Bridge.raiseMedia_member (b := s.eventBridge) shaped
      have judged := Bridge.judgeAnswer_media (b := s.eventBridge) (cfg := s.mgmt.settings) (port := port)
        (if e.command.kind == .dread then body.blocks else []) read (raised ▸ below)
      refine ⟨((s.eventBridge.raiseMedia e.command.member).freeTag port e.tag).push [.deliver e.command .media],
        ?_, (congrArg Member.media raised :), (congrArg Member.state raised :),
        fun m other => Bridge.onMember_other other s.eventBridge _, rfl, Bridge.freeTag_tagEntry _ _ _, rfl, rfl, rfl⟩
      rw [Bridge.answerTaken_judged (b := s.eventBridge) status body (by simp [read]) own, media, judged]
  · refine ⟨fun tag index issuer => ⟨fun blocks => ?_, ?_⟩, fun arrival issuer => ⟨fun blocks => ?_, ?_⟩,
      fun w role s ending issuer served => ?_, fun w role ending issuer unserved => ?_,
      fun ending => ⟨fun i issuer => ?_, fun issuer => ?_, fun issuer => ?_, fun position issuer => ?_⟩⟩
    · exact Bridge.deliver_plainRead issuer _
    · exact Bridge.deliver_plainRead issuer _
    · exact Bridge.deliver_gather issuer _
    · exact Bridge.deliver_gather issuer _
    · exact (Bridge.deliver_service issuer ending).trans (Bridge.stepCommandEnded_some served role ending)
    · exact (Bridge.deliver_service issuer ending).trans (Bridge.stepCommandEnded_none unserved role ending)
    · exact Bridge.deliver_writeOut issuer ending
    · exact Bridge.deliver_stageWrite issuer ending
    · exact Bridge.deliver_checkpoint issuer ending
    · exact Bridge.deliver_stageRead issuer ending

/-- Settles O22: DNOSLOT and a failing DMEDIA, at an ONLINE member. -/
theorem answerFailsMember : Obligations.AnswerFailsMember := by
  intro port tag slot status body s e outstanding fits online own kind
  have live : s.bridge.memberFailed e.command.member = false := Bridge.live_of_online online
  have taken : exec (.driveCompletion port tag slot status body) s = .next (s.withBridge
      ((s.eventBridge.answerTaken s.mgmt.settings port e status body).settle s.mgmt.settings)) :=
    congrArg (fun b => Host.Outcome.next (s.withBridge b))
      (Bridge.driveAnswer_taken (b := s.eventBridge) status body outstanding fits live)
  rw [taken, Bridge.answerTaken_judged (b := s.eventBridge) status body kind own]
  refine ⟨fun noSlot => ?_, fun status_ fails shaped => ?_⟩
  · rw [answerOf_noSlot noSlot, Bridge.judgeAnswer_noSlot, Bridge.failCommand_online (b := s.eventBridge) online]
    rfl
  · have media : answerOf e.command status body = .media :=
      status_.elim answerOf_media fun ⟨read, good, unfit⟩ => answerOf_unfittingRead read good unfit
    have raised := Bridge.raiseMedia_member (b := s.eventBridge) shaped
    have limit : e.command.kind = .dwrite ∨ s.mgmt.settings.mediaLimit
        ≤ ((s.eventBridge.raiseMedia e.command.member).member e.command.member).media := raised ▸ fails
    rw [media, Bridge.judgeAnswer_mediaFails (b := s.eventBridge) _ limit,
      Bridge.failCommand_online (Bridge.raiseMedia_online (b := s.eventBridge) online shaped)]
    rfl

/-! The starvation timer (R156). -/

/-- In YIELD a starvation timer that has run out gives the next grant to migration. -/
theorem grantClass_starved {cfg : Settings} {p : ShelfPort} {elapsed : Nat} (foreground : p.foreground ≠ [])
    (migration : p.migration ≠ []) (running : p.starvation = some elapsed) (out : cfg.starveLimit ≤ elapsed) :
    grantClass cfg .yield p = some .migration := by
  rw [(grantClass_both foreground migration).2]
  exact if_pos ((p.starved_iff cfg).2 ⟨elapsed, running, out⟩)

/-- Settles O25: a running timer that has run out is one that `grantClass` takes as starved. -/
theorem starvationTimerRunsOut : Obligations.StarvationTimerRunsOut := by
  intro port s t
  refine ⟨rfl, fun shaped foreground migration running => ?_⟩
  obtain ⟨elapsed, running⟩ := Option.ne_none_iff_exists'.1 running
  have ports : s.bridge.shelves.length = 6 := by
    obtain ⟨ports, -⟩ := shaped
    exact ports
  have shelf : t.bridge.shelf port =
      { s.bridge.shelf port with
        starvation := (s.bridge.shelf port).starvation.map (fun elapsed => max elapsed s.mgmt.settings.starveLimit) } :=
    Bridge.onShelf_shelf (b := s.bridge) (port.isLt.trans_eq ports.symm) _
  rw [shelf]
  exact grantClass_starved foreground migration (congrArg (Option.map _) running) (le_max_right _ _)

end Sys2Proof.Machine
end

section
/-! PROOFS. The timers of commands (R139, R150, R151, R164, R165). -/

namespace Sys2Proof.Machine

open Sys2Proof

/-! What the end of a probe or a record read leaves (R151, R164, R165). -/

theorem CommandRecord.probeOver_more {r : CommandRecord} {n : Nat} (running : r.state = .executing n) (more : 2 ≤ n) :
    r.probeOver = { r with state := .executing (n - 1) } := by
  unfold CommandRecord.probeOver
  rw [running]
  exact if_neg (by omega)

theorem CommandRecord.probeOver_last {r : CommandRecord} (running : r.state = .executing 1) :
    r.probeOver = { state := .idle, code := 2, result := .ok, sequence := r.sequence + 1 } := by
  unfold CommandRecord.probeOver
  rw [running]
  rfl

theorem Bridge.chooseWhenOver_over {b : Bridge} {d : Discovery} (h : b.discovery = some d)
    (ended : d.members.all DiscoveryMember.over = true) : b.chooseWhenOver.work = b.work ++ [.choose] := by
  rw [Bridge.chooseWhenOver_work h, if_pos ended]

theorem Bridge.chooseWhenOver_open {b : Bridge} {d : Discovery} (h : b.discovery = some d)
    (still : d.members.all DiscoveryMember.over = false) : b.chooseWhenOver.work = b.work := by
  rw [Bridge.chooseWhenOver_work h, if_neg (by simp [still]), List.append_nil]

@[simp] theorem Bridge.chooseWhenOver_discovery (b : Bridge) : b.chooseWhenOver.discovery = b.discovery := by
  rw [Bridge.chooseWhenOver_only]
@[simp] theorem Bridge.chooseWhenOver_member (b : Bridge) (m : Nat) : b.chooseWhenOver.member m = b.member m := by
  rw [Bridge.chooseWhenOver_only]
  rfl
@[simp] theorem Bridge.chooseWhenOver_tagEntry (b : Bridge) (port tag : Nat) :
    b.chooseWhenOver.tagEntry? port tag = b.tagEntry? port tag := by
  rw [Bridge.chooseWhenOver_only]
  rfl

/-- Discovery after a record read with no answer of use: the member is absent, and its records are no candidates. -/
def Discovery.withoutReader (d : Discovery) (m : Nat) (odd : Bool) : Discovery :=
  { d.onMember m (fun x => { x.setRead odd .ended with probe := .absent }) with candidates := dropCopies m d.candidates }

theorem Bridge.recordReadEnded_gone {b : Bridge} {d : Discovery} {m : Nat} (odd : Bool) (running : b.discovery = some d)
    (length : m < d.members.length) (answered : d.answered m = true) :
    b.recordReadEnded m odd .gone =
      ((b.onMember m (fun _ => Member.reset)).onDiscovery (fun _ => d.withoutReader m odd)).chooseWhenOver := by
  have kept : (b.onMember m (fun _ => Member.reset)).discovery = some d := running
  have absent : ((d.withoutReader m odd).member m).probe = .absent :=
    congrArg DiscoveryMember.probe (Discovery.onMember_member length _)
  have ended : b.recordReadEnded m odd .gone =
      ((b.onMember m (fun _ => Member.reset)).onDiscovery (fun _ => d.withoutReader m odd)).afterRecordRead m := by
    simp [Bridge.recordReadEnded, running, answered, Bridge.onDiscovery, kept, Discovery.withoutReader]
  rw [ended]
  simp [Bridge.afterRecordRead, Bridge.onDiscovery, kept, absent, ProbeState.hasAnswered]

theorem dropCopies_none (m : Nat) (candidates : List Candidate) :
    ∀ c ∈ dropCopies m candidates, ∀ x ∈ c.copies, x.1 ≠ m := by
  intro c hc x hx
  obtain ⟨before, -, rfl⟩ := List.mem_map.1 (List.mem_filter.1 hc).1
  simpa using (List.mem_filter.1 hx).2

/-! Which way an expiry goes (R139). -/

theorem exec_commandTimerExpiry (port : Fin 6) (tag : Fin 64) (s : State) :
    exec (.commandTimerExpiry port tag) s =
      .next (s.withBridge (s.eventBridge.timerExpires s.mgmt.settings port tag)) := rfl

section
variable {cfg : Settings} {b : Bridge} {port tag : Nat} {e : TagEntry}

theorem Bridge.timerExpires_again (outstanding : b.tagEntry? port tag = some e) (more : e.attempt ≤ cfg.retryLimit) :
    b.timerExpires cfg port tag = b.reissue cfg port e := by
  unfold Bridge.timerExpires
  rw [outstanding]
  exact if_pos more

theorem Bridge.timerExpires_last (outstanding : b.tagEntry? port tag = some e) (last : cfg.retryLimit < e.attempt) :
    b.timerExpires cfg port tag = (b.lastExpiry port e).settle cfg := by
  unfold Bridge.timerExpires
  rw [outstanding]
  exact if_neg (Nat.not_le.2 last)

theorem Bridge.lastExpiry_command (kind : e.command.kind ≠ .dprobe) (own : ∀ odd, e.command.issuer ≠ .recordRead odd) :
    b.lastExpiry port e = b.failCommand port e := by
  unfold Bridge.lastExpiry
  split
  next probe => exact absurd probe kind
  all_goals
    split
    next odd record => exact absurd record (own odd)
    next => rfl

theorem Bridge.lastExpiry_admit (kind : e.command.kind = .dprobe) (issuer : e.command.issuer = .admitProbe) :
    b.lastExpiry port e = (b.freeTag port e.tag).admitProbeEnded e.command.member none := by
  simp only [Bridge.lastExpiry, Bridge.probeEnded, kind, issuer]

theorem Bridge.lastExpiry_discovery (kind : e.command.kind = .dprobe) (issuer : e.command.issuer = .discoveryProbe) :
    b.lastExpiry port e = (b.freeTag port e.tag).discoveryProbeEnded e.command.member none := by
  simp only [Bridge.lastExpiry, Bridge.probeEnded, kind, issuer]

theorem Bridge.lastExpiry_record {odd : Bool} (kind : e.command.kind = .dread)
    (issuer : e.command.issuer = .recordRead odd) :
    b.lastExpiry port e = (b.freeTag port e.tag).recordReadEnded e.command.member odd .gone := by
  simp only [Bridge.lastExpiry, kind, issuer]

theorem Bridge.reissue_eq :
    b.reissue cfg port e =
      { b with
        shelves := b.shelves.modify port (fun p =>
          { p with table := p.table.map (fun x =>
              if x.tag = e.tag then { e with attempt := e.attempt + 1, timer := cfg.cmdTimeout } else x) })
        sent := b.sent ++ [driveFrame e.tag e.command] } := by
  simp only [Bridge.reissue, beq_iff_eq]
  rfl

end

/-! The bridge that the end of a discovery probe, or of a record read with no answer of use, leaves. -/

section
variable {b : Bridge} {d : Discovery} {m : Nat}

/-- The bridge with a member's entry and discovery's state replaced, before the choice is looked at. -/
def Bridge.probed (b : Bridge) (m : Nat) (entry : Member) (d : Discovery) : Bridge :=
  (b.onMember m (fun _ => entry)).onDiscovery (fun _ => d)

variable {entry : Member}

theorem Bridge.probed_discovery {before : Discovery} (running : b.discovery = some before) :
    (b.probed m entry d).discovery = some d := by
  have kept : (b.onMember m (fun _ => entry)).discovery = some before := running
  simp [Bridge.probed, Bridge.onDiscovery, kept]

theorem Bridge.probed_member (length : m < b.members.length) : (b.probed m entry d).member m = entry :=
  Bridge.onMember_member length _

theorem Bridge.probed_other {k : Nat} (other : k ≠ m) : (b.probed m entry d).member k = b.member k :=
  Bridge.onMember_other other b _

end

/-- Settles O24: an attempt that is repeated, and the four ways a last attempt ends. -/
theorem timerExpiry : Obligations.TimerExpiry := by
  intro port tag s e outstanding
  rw [exec_commandTimerExpiry]
  refine ⟨fun more => ?_, fun last kind own online => ?_, fun last shaped small => ?_⟩
  · rw [Bridge.timerExpires_again (b := s.eventBridge) outstanding more, Bridge.reissue_eq]
    rfl
  · rw [Bridge.timerExpires_last (b := s.eventBridge) outstanding last,
      Bridge.lastExpiry_command (b := s.eventBridge) kind own, Bridge.failCommand_online (b := s.eventBridge) online]
    rfl
  intro m blank
  have member : m < (s.eventBridge.freeTag port e.tag).members.length := by
    obtain ⟨-, members⟩ := shaped
    exact small.trans_eq members.symm
  have freed := Bridge.freeTag_tagEntry s.eventBridge port e.tag
  rw [Bridge.timerExpires_last (b := s.eventBridge) outstanding last]
  refine ⟨fun kind issuer n executing => ?_, fun d running length => ⟨fun kind issuer => ?_,
    fun odd kind issuer answered => ?_⟩⟩
  · rw [Bridge.lastExpiry_admit (b := s.eventBridge) kind issuer]
    refine ⟨_, rfl, Bridge.onMember_member member _, fun k other => Bridge.onMember_other other _ _, freed, rfl,
      fun more => CommandRecord.probeOver_more executing more, ?_⟩
    rintro rfl
    exact CommandRecord.probeOver_last executing
  · have kept : (s.eventBridge.freeTag port e.tag).discovery = some d := running
    have own := Discovery.onMember_member length
      (fun _ => { probe := .absent, block0 := .ended, block8 := .ended })
    have discovery := Bridge.probed_discovery (m := m) (entry := Member.reset) (d := d.onMember m
      (fun _ => { probe := .absent, block0 := .ended, block8 := .ended })) kept
    rw [Bridge.lastExpiry_discovery (b := s.eventBridge) kind issuer, Bridge.discoveryProbeEnded_none kept]
    refine ⟨_, _, rfl, ?_, fun k other => ?_, ?_, ?_, congrArg DiscoveryMember.probe own, rfl,
      congrArg DiscoveryMember.over own,
      fun k other => Discovery.onMember_other other d _, fun ended => ?_, fun still => ?_⟩
    · exact (Bridge.chooseWhenOver_member _ _).trans (Bridge.probed_member member)
    · exact (Bridge.chooseWhenOver_member _ _).trans (Bridge.probed_other other)
    · exact (Bridge.chooseWhenOver_tagEntry _ _ _).trans freed
    · exact (Bridge.chooseWhenOver_discovery _).trans discovery
    · exact Bridge.chooseWhenOver_over discovery ended
    · exact Bridge.chooseWhenOver_open discovery still
  · have kept : (s.eventBridge.freeTag port e.tag).discovery = some d := running
    have own := Discovery.onMember_member length (fun x => { x.setRead odd .ended with probe := .absent })
    have discovery := Bridge.probed_discovery (m := m) (entry := Member.reset) (d := d.withoutReader m odd) kept
    rw [Bridge.lastExpiry_record (b := s.eventBridge) kind issuer, Bridge.recordReadEnded_gone odd kept length answered]
    refine ⟨_, d.withoutReader m odd, rfl, ?_, fun k other => ?_, ?_, ?_, congrArg DiscoveryMember.probe own,
      fun k other => Discovery.onMember_other other d _, fun ended => ?_, fun still => ?_, dropCopies_none m d.candidates⟩
    · exact (Bridge.chooseWhenOver_member _ _).trans (Bridge.probed_member member)
    · exact (Bridge.chooseWhenOver_member _ _).trans (Bridge.probed_other other)
    · exact (Bridge.chooseWhenOver_tagEntry _ _ _).trans freed
    · exact (Bridge.chooseWhenOver_discovery _).trans discovery
    · exact Bridge.chooseWhenOver_over discovery ended
    · exact Bridge.chooseWhenOver_open discovery still

end Sys2Proof.Machine
end

section
/-! PROOFS. The declaration of a member's failure (R93, R94, R127, R146, R147). -/

namespace Sys2Proof.Machine

open Sys2Proof

/-! The commands of a member, told apart by a test. -/

theorem beq_member (m : Nat) : (fun c : DriveCommand => c.member == m) = fun c => decide (c.member = m) :=
  funext fun c => beq_eq_decide c.member m

theorem bne_member (m : Nat) : (fun c : DriveCommand => c.member != m) = fun c => decide (c.member ≠ m) :=
  funext fun c => by simp [bne, beq_eq_decide]

theorem ShelfPort.commandsOf_eq (p : ShelfPort) (m : Nat) :
    p.commandsOf m =
      (p.table.map TagEntry.command).filter (fun c => c.member = m) ++ p.foreground.filter (fun c => c.member = m)
        ++ p.migration.filter (fun c => c.member = m) := by
  rw [ShelfPort.commandsOf, beq_member, List.filter_append, List.filter_append]

theorem ShelfPort.without_eq (p : ShelfPort) (m : Nat) :
    p.without m =
      { p with
        table := p.table.filter (fun e => e.command.member ≠ m)
        foreground := p.foreground.filter (fun c => c.member ≠ m)
        migration := p.migration.filter (fun c => c.member ≠ m)
        starvation := if p.migration.filter (fun c => c.member ≠ m) = [] then none else p.starvation } := by
  have table : (fun e : TagEntry => e.command.member != m) = fun e => decide (e.command.member ≠ m) :=
    funext fun e => congrFun (bne_member m) e.command
  simp only [ShelfPort.without, table, bne_member, List.isEmpty_iff]

theorem waitListLeft_eq (m : Nat) (steps : List (List DriveCommand)) :
    waitListLeft m steps = (steps.map (waitingStepLeft m)).filter (fun step => step ≠ []) :=
  List.filter_congr fun step _ => by cases step <;> rfl

/-! What is in flight, and what a layout's health says. -/

theorem Bridge.broken_iff (b : Bridge) (l : Layout) : b.broken l = true ↔ b.health l = .broken := by
  simp [Bridge.broken]

theorem Bridge.gatherInFlight_iff (b : Bridge) : b.gatherInFlight = true ↔ ∃ g ∈ b.port.gathers, g.released = true := by
  simp [Bridge.gatherInFlight]

theorem Engine.writeOutInFlight_iff (e : Engine) :
    e.writeOutInFlight = true ↔ ∃ i, (e.slot i).state = .writing ∧ 0 < (e.slot i).writes := by
  have writingOut (s : Slot) : s.writingOut = true ↔ s.state = .writing ∧ 0 < s.writes := by simp [Slot.writingOut]
  rw [Engine.writeOutInFlight, Bool.or_eq_true, writingOut, writingOut]
  constructor
  · rintro (inA | inB)
    · exact ⟨.a, inA⟩
    · exact ⟨.b, inB⟩
  · rintro ⟨i, busy⟩
    cases i
    · exact .inl busy
    · exact .inr busy

theorem Bridge.brokenWork_iff (b : Bridge) (wroteOut : Bool) :
    b.brokenWork wroteOut = true ↔
      (b.health .current = .broken ∧ ∃ g ∈ b.port.gathers, g.released = true)
        ∨ (b.health b.engine.writtenLayout = .broken ∧ (wroteOut = true ∨ b.engine.writeOutInFlight = true)) := by
  rw [Bridge.brokenWork, Bool.or_eq_true, Bool.and_eq_true, Bool.and_eq_true, Bool.or_eq_true, b.broken_iff, b.broken_iff,
    b.gatherInFlight_iff, and_comm, and_comm (b := b.health b.engine.writtenLayout = .broken)]

theorem Bridge.neededColumn_iff (b : Bridge) (m : Nat) :
    b.neededColumn m = true ↔ ∃ l ∈ b.engine.neededLayouts, ∃ d, b.engine.descriptor l = some d ∧ m ∈ d.members := by
  rw [Bridge.neededColumn, List.any_eq_true]
  refine exists_congr fun l => and_congr_right fun _ => ?_
  cases b.engine.descriptor l <;> simp

theorem Engine.takesHold_iff (e : Engine) :
    e.takesHold = true ↔ e.state = .copy ∨ e.state = .fill ∨ e.state = .recover := by
  simp [Engine.takesHold, or_assoc]

/-! The declaration. -/

/-- The bridge once the commands of a failing member have reached their issuers (R146, steps 1 and 2). -/
def Bridge.membersEnded (b : Bridge) (m : Nat) : Bridge := (b.markFailed m).commandsFail m

theorem Bridge.declareFailed_eq (b : Bridge) (m : Nat) :
    b.declareFailed m =
      ((b.membersEnded m).refreshHealth.engineLearns m b.engine.writeOutInFlight).raise causeMember := rfl

theorem Bridge.withdrawStep_eq (b : Bridge) (w : Work) :
    b.withdrawStep w = (b.onService w (fun s => { s with results := [], outstanding := 0 })).push [.decideAgain w] := rfl

/-- Settles O23: the five steps of R146 are those of `declareFailed`, and each issuer takes its failed command by its own
rules. -/
theorem memberDeclaredFailed : Obligations.MemberDeclaredFailed := by
  refine ⟨fun b m shaped ports => ?_, fun b c => ?_⟩
  · intro p hit whole left ends all
    have hit_eq (step : List DriveCommand) : step.any (fun c => c.member == m) = hit step := by rw [beq_member]
    have whole_eq (step : List DriveCommand) : stepWithdrawnWhole step = whole step := rfl
    have left_eq : waitingStepLeft m = left := funext fun step => by
      rw [waitingStepLeft, hit_eq, whole_eq, bne_member]
    have ends_eq : waitingStepEnds m = ends := funext fun step => by
      unfold waitingStepEnds
      rw [hit_eq, beq_member]
      cases step with
      | nil => rfl
      | cons c rest => cases issuer : c.issuer <;> simp only [ends, List.head?_cons, issuer]
    have all_eq : (b.markFailed m).memberEnds m = all := by
      rw [Bridge.memberEnds, ShelfPort.commandsOf_eq, ends_eq]
      rfl
    have taken : Bridge.takeEnd = fun x e => match e with
        | .command c => x.deliver c .failed
        | .step w => x.withdrawStep w := by
      funext x e
      cases e <;> rfl
    refine ⟨b.markFailed m, (b.markFailed m).withoutMember m, rfl, Bridge.markFailed_member shaped, fun k other => ?_, ?_,
      ?_, fun q other => ?_, ?_⟩
    · simp [Bridge.markFailed, Bridge.member, other.symm]
    · rw [Bridge.withoutMember_only, waitListLeft_eq, waitListLeft_eq, left_eq]
      rfl
    · exact (Bridge.withoutMember_shelf (b := b.markFailed m) ports).trans (p.without_eq m)
    · exact Bridge.onShelf_other other (b.markFailed m) _
    · intro ended seen writing broken holds
      have ended_eq : b.membersEnded m = ended := by
        rw [Bridge.membersEnded, Bridge.commandsFail, all_eq]
        exact congrArg (fun f => all.foldl f ((b.markFailed m).withoutMember m)) taken
      have seen_eq : (b.membersEnded m).refreshHealth = seen := by rw [ended_eq]; rfl
      have broken_iff : seen.brokenWork b.engine.writeOutInFlight = true ↔ broken := by
        rw [Bridge.brokenWork_iff, Engine.writeOutInFlight_iff, Engine.writeOutInFlight_iff]
      have holds_iff : (seen.neededColumn m && seen.engine.takesHold) = true ↔ holds := by
        rw [Bool.and_eq_true, Bridge.neededColumn_iff, Engine.takesHold_iff]
      rw [Bridge.declareFailed_eq, seen_eq]
      refine ⟨fun isBroken => ?_, fun whole holding => ?_, fun whole idle => ?_⟩
      · rw [Bridge.engineLearns_broken (broken_iff.2 isBroken)]
        rfl
      · obtain ⟨needed, takes⟩ := Bool.and_eq_true_iff.1 (holds_iff.2 holding)
        rw [Bridge.engineLearns_hold (Bool.eq_false_iff.2 (mt broken_iff.1 whole)) needed takes]
        rfl
      · rw [Bridge.engineLearns_nothing (Bool.eq_false_iff.2 (mt broken_iff.1 whole))
          (Bool.eq_false_iff.2 (mt holds_iff.1 idle))]
        rfl
  · exact ⟨fun tag index issuer => Bridge.deliver_plainRead issuer _, fun arrival issuer => Bridge.deliver_gather issuer _,
      fun w role s issuer served =>
        (Bridge.deliver_service issuer _).trans (Bridge.stepCommandEnded_some served role _),
      fun w => b.withdrawStep_eq w, fun i issuer => Bridge.deliver_writeOut issuer _,
      fun issuer => Bridge.deliver_stageWrite issuer _, fun issuer => Bridge.deliver_checkpoint issuer _,
      fun position issuer => Bridge.deliver_stageRead issuer _⟩

end Sys2Proof.Machine
end

section
/-! PROOFS. Steps, queues and step wait lists (R137, R147, R156). -/

namespace Sys2Proof.Machine

open Sys2Proof

/-! The room of the queues (7.2). -/

theorem Bridge.fits_iff (b : Bridge) (cls : CommandClass) (step : List DriveCommand) :
    b.fits cls step = true ↔
      ∀ q < 6, (step.filter (fun c => c.member / 16 = q)).length = 0
        ∨ ((b.shelf q).queue cls).length + (step.filter (fun c => c.member / 16 = q)).length ≤ cls.room := by
  have test (q : Nat) : (fun c : DriveCommand => shelfOf c.member == q) = fun c => Decidable.decide (c.member / 16 = q) :=
    funext fun c => beq_eq_decide (shelfOf c.member) q
  rw [Bridge.fits, List.all_eq_true]
  refine forall_congr' fun q => ?_
  rw [List.mem_range, test]
  refine imp_congr_right fun _ => ?_
  rw [Bool.or_eq_true, beq_iff_eq, decide_eq_true_eq]

theorem ShelfPort.fit_iff (p : ShelfPort) :
    (p.foreground.length ≤ Config.foregroundRoom ∧ p.migration.length ≤ Config.migrationRoom)
      ↔ ∀ cls, (p.queue cls).length ≤ cls.room :=
  ⟨fun ⟨foreground, migration⟩ cls => by cases cls <;> assumption, fun h => ⟨h .foreground, h .migration⟩⟩

theorem Bridge.queuesFit_iff {b : Bridge} (ports : b.shelves.length = 6) :
    b.queuesFit ↔ ∀ q < 6, ∀ cls, ((b.shelf q).queue cls).length ≤ cls.room := by
  constructor
  · intro fit q hq
    have own : b.shelf q = b.shelves[q]'(hq.trans_eq ports.symm) := by
      simp [Bridge.shelf, ports, hq]
    rw [own]
    exact (ShelfPort.fit_iff _).1 (fit _ (List.getElem_mem _))
  · intro fit p hp
    obtain ⟨q, hq, rfl⟩ := List.getElem_of_mem hp
    have own : b.shelf q = b.shelves[q] := by simp [Bridge.shelf, hq]
    exact own ▸ (ShelfPort.fit_iff (b.shelf q)).2 (fit q (hq.trans_eq ports))

/-! Commands that join their queues. -/

/-- A command that joins its queue leaves the queue of the other class as it is. -/
theorem ShelfPort.join_other {cls other : CommandClass} {c : DriveCommand} (own : c.issuer.cls = cls) (differ : other ≠ cls)
    (p : ShelfPort) : (p.join c).queue other = p.queue other := by
  cases cls with
  | foreground =>
    cases other with
    | foreground => exact absurd rfl differ
    | migration => simp only [ShelfPort.join, own, ShelfPort.queue]
  | migration =>
    cases other with
    | foreground => simp only [ShelfPort.join, own, ShelfPort.queue]
    | migration => exact absurd rfl differ

/-- Commands of one class leave the queues of the other as they are. -/
theorem Bridge.enqueue_otherQueue {cls other : CommandClass} (differ : other ≠ cls) (step : List DriveCommand) {b : Bridge}
    (each : ∀ c ∈ step, c.issuer.cls = cls) (q : Nat) :
    ((b.enqueue step).shelf q).queue other = (b.shelf q).queue other := by
  induction step generalizing b with
  | nil => rfl
  | cons c rest ih =>
    have own : c.issuer.cls = cls := each c (by simp)
    have joined : ((b.onShelf (shelfOf c.member) (fun p => p.join c)).shelf q).queue other = (b.shelf q).queue other := by
      by_cases here : q = shelfOf c.member
      · subst here
        rcases Nat.lt_or_ge (shelfOf c.member) b.shelves.length with inside | outside
        · rw [Bridge.onShelf_shelf inside]
          exact ShelfPort.join_other own differ _
        · simp [Bridge.onShelf, Bridge.shelf, Nat.not_lt.2 outside]
      · rw [Bridge.onShelf_other here]
    exact (ih fun x hx => each x (by simp [hx])).trans joined

/-- A step that fits grows no queue beyond its room. -/
theorem Bridge.enqueue_queuesFit {cls : CommandClass} {step : List DriveCommand} {b : Bridge} (ports : b.shelves.length = 6)
    (each : ∀ c ∈ step, c.issuer.cls = cls ∧ c.member < 96) (fit : b.queuesFit) (fits : b.fits cls step = true) :
    (b.enqueue step).queuesFit := by
  obtain ⟨after, -⟩ := Bridge.enqueue_joins step ports each 0
  refine (Bridge.queuesFit_iff after).2 fun q hq other => ?_
  have before := (Bridge.queuesFit_iff ports).1 fit q hq other
  by_cases same : other = cls
  · subst same
    obtain ⟨-, queue, -⟩ := Bridge.enqueue_joins step ports each q
    have here : (fun c : DriveCommand => Decidable.decide (q < 6 ∧ c.member / 16 = q))
        = fun c => Decidable.decide (c.member / 16 = q) := by
      simp [hq]
    rw [queue, here, List.length_append]
    rcases (b.fits_iff other step).1 fits q hq with none | room
    · rwa [none]
    · exact room
  · rwa [Bridge.enqueue_otherQueue same step (fun c hc => (each c hc).1)]

@[simp] theorem Bridge.enqueue_waitList (b : Bridge) (step : List DriveCommand) (cls : CommandClass) :
    (b.enqueue step).waitList cls = b.waitList cls := by
  rw [Bridge.enqueue_shelves_only]
  cases cls <;> rfl

/-! The step wait lists. -/

section
variable (b : Bridge) (cls : CommandClass) (steps : List (List DriveCommand))

@[simp] theorem Bridge.setWaitList_shelves : (b.setWaitList cls steps).shelves = b.shelves := by cases cls <;> rfl
@[simp] theorem Bridge.setWaitList_work : (b.setWaitList cls steps).work = b.work := by cases cls <;> rfl
@[simp] theorem Bridge.setWaitList_engine : (b.setWaitList cls steps).engine = b.engine := by cases cls <;> rfl
@[simp] theorem Bridge.setWaitList_waitList : (b.setWaitList cls steps).waitList cls = steps := by cases cls <;> rfl

theorem Bridge.setWaitList_other {other : CommandClass} (differ : other ≠ cls) :
    (b.setWaitList cls steps).waitList other = b.waitList other := by
  cases cls with
  | foreground =>
    cases other with
    | foreground => exact absurd rfl differ
    | migration => rfl
  | migration =>
    cases other with
    | foreground => rfl
    | migration => exact absurd rfl differ

@[simp] theorem Bridge.setWaitList_shelf (q : Nat) : (b.setWaitList cls steps).shelf q = b.shelf q := by cases cls <;> rfl
@[simp] theorem Bridge.setWaitList_fits (step : List DriveCommand) (own : CommandClass) :
    (b.setWaitList cls steps).fits own step = b.fits own step := by cases cls <;> rfl

end

/-! Handing over a step (R137, R147). -/

section
variable {b : Bridge} {cls : CommandClass} {step : List DriveCommand}

theorem Bridge.issueStep_queued (some_ : step ≠ []) (live : ∀ c ∈ step, b.memberFailed c.member = false)
    (empty : b.waitList cls = []) (fits : b.fits cls step = true) : b.issueStep cls step = b.enqueue step := by
  rw [Bridge.issueStep_live some_ live, empty, fits]
  rfl

theorem Bridge.issueStep_waits (some_ : step ≠ []) (live : ∀ c ∈ step, b.memberFailed c.member = false)
    (cannot : ¬(b.waitList cls = [] ∧ b.fits cls step = true)) :
    b.issueStep cls step = b.setWaitList cls (b.waitList cls ++ [step]) := by
  rw [Bridge.issueStep_live some_ live, if_neg]
  rwa [Bool.and_eq_true, List.isEmpty_iff]

theorem Bridge.issueStep_nil (b : Bridge) (cls : CommandClass) : b.issueStep cls [] = b := b.push_nil

/-- The commands to failed members end first, and the others are handed over as a step. -/
theorem Bridge.issueStep_split (b : Bridge) (cls : CommandClass) (step : List DriveCommand) :
    b.issueStep cls step =
      (b.push ((step.filter (fun c => b.memberFailed c.member)).map (fun c => .deliver c .failed))).issueStep cls
        (step.filter (fun c => !b.memberFailed c.member)) := by
  by_cases none : step.filter (fun c => !b.memberFailed c.member) = []
  · rw [none, Bridge.issueStep_nil]
    unfold Bridge.issueStep
    exact if_pos (List.isEmpty_iff.2 none)
  · have live (acts : List Action) : ∀ c ∈ step.filter (fun c => !b.memberFailed c.member),
        (b.push acts).memberFailed c.member = false := fun c hc => by
      have kept : b.memberFailed c.member = false := by simpa using (List.mem_filter.1 hc).2
      exact kept
    rw [Bridge.issueStep_live none (live _)]
    unfold Bridge.issueStep
    exact if_neg (mt List.isEmpty_iff.1 none)

theorem Bridge.admitWaiting_fits {rest : List (List DriveCommand)} (head : b.waitList cls = step :: rest)
    (fits : b.fits cls step = true) : b.admitWaiting cls = some ((b.setWaitList cls rest).enqueue step) := by
  unfold Bridge.admitWaiting
  rw [head]
  exact if_pos fits

theorem Bridge.admitWaiting_stays {rest : List (List DriveCommand)} (head : b.waitList cls = step :: rest)
    (cannot : ¬b.fits cls step = true) : b.admitWaiting cls = none := by
  unfold Bridge.admitWaiting
  rw [head]
  exact if_neg cannot

theorem Bridge.admitWaiting_empty (empty : b.waitList cls = []) : b.admitWaiting cls = none := by
  unfold Bridge.admitWaiting
  rw [empty]

end

/-! What the ports do next. -/

section
variable {cfg : Settings} {b b' : Bridge}

theorem Bridge.pump_foreground (admits : b.admitWaiting .foreground = some b') : b.pump cfg = some b' := by
  unfold Bridge.pump
  rw [admits]

theorem Bridge.pump_migration (none : b.admitWaiting .foreground = none) (admits : b.admitWaiting .migration = some b') :
    b.pump cfg = some b' := by
  unfold Bridge.pump
  rw [none, admits]

theorem Bridge.pump_grants (foreground : b.admitWaiting .foreground = none) (migration : b.admitWaiting .migration = none) :
    b.pump cfg = (List.range Config.shelfPorts).findSome? (b.grantAt cfg) := by
  unfold Bridge.pump
  rw [foreground, migration]

end

/-- The first index below a bound at which a function gives a value. -/
theorem findSome?_range {α : Type} {f : Nat → Option α} {n k : Nat} {x : α} (inside : k < n) (here : f k = some x)
    (before : ∀ j < k, f j = none) : (List.range n).findSome? f = some x := by
  rw [List.findSome?_eq_some_iff]
  refine ⟨List.range k, k, (List.range (n - k - 1)).map (k + 1 + ·), ?_, here, fun j hj => before j (List.mem_range.1 hj)⟩
  rw [show n = k + 1 + (n - k - 1) by omega, List.range_add, List.range_succ, List.append_assoc,
    show k + 1 + (n - k - 1) - k - 1 = n - k - 1 by omega]
  rfl

/-- Settles O26: a step is queued whole or waits whole, and no queue grows beyond its room. -/
theorem stepsQueuedWithinRoom : Obligations.StepsQueuedWithinRoom := by
  refine ⟨fun b cls step shaped fit some_ each => ?_, fun b cls step => ?_, fun cfg b => ?_⟩
  · intro needed room fits joined
    obtain ⟨ports, -⟩ := shaped
    have fits_iff : b.fits cls step = true ↔ fits := by
      rw [Bridge.fits_iff]
      cases cls <;> exact Iff.rfl
    have queued (c : Bridge) (shelves : c.shelves = b.shelves) : joined (c.enqueue step) := by
      have own (q : Nat) : c.shelf q = b.shelf q := by simp [Bridge.shelf, shelves]
      intro q
      obtain ⟨-, joins⟩ := Bridge.enqueue_joins (b := c) step (shelves ▸ ports) each q
      rwa [own] at joins
    refine ⟨fun live => ?_, fun rest head => ⟨fun hasRoom => ?_, fun full => ?_⟩⟩
    · by_cases can : b.waitList cls = [] ∧ fits
      · obtain ⟨empty, hasRoom⟩ := can
        rw [Bridge.issueStep_queued some_ live empty (fits_iff.2 hasRoom)]
        exact ⟨Bridge.enqueue_queuesFit ports each fit (fits_iff.2 hasRoom), Bridge.enqueue_work _ _,
          fun _ _ => ⟨(Bridge.enqueue_waitList _ _ _).trans empty, queued b rfl⟩,
          fun cannot => absurd ⟨empty, hasRoom⟩ cannot⟩
      · rw [Bridge.issueStep_waits some_ live (by rwa [fits_iff])]
        refine ⟨?_, Bridge.setWaitList_work _ _ _, fun empty hasRoom => absurd ⟨empty, hasRoom⟩ can,
          fun _ => ⟨Bridge.setWaitList_shelves _ _ _, Bridge.setWaitList_waitList _ _ _⟩⟩
        rwa [Bridge.queuesFit, Bridge.setWaitList_shelves]
    · have shelves := Bridge.setWaitList_shelves b cls rest
      refine ⟨_, Bridge.admitWaiting_fits head (fits_iff.2 hasRoom), Bridge.enqueue_queuesFit (shelves ▸ ports) each ?_ ?_,
        ?_, queued _ shelves, ?_, ?_, fun other differ => ⟨?_, fun q => ?_⟩⟩
      · rwa [Bridge.queuesFit, Bridge.setWaitList_shelves]
      · rw [Bridge.setWaitList_fits]
        exact fits_iff.2 hasRoom
      · rw [Bridge.enqueue_waitList, Bridge.setWaitList_waitList]
      · rw [Bridge.enqueue_work, Bridge.setWaitList_work]
      · rw [Bridge.enqueue_engine, Bridge.setWaitList_engine]
      · rw [Bridge.enqueue_waitList, Bridge.setWaitList_other _ _ _ differ]
      · rw [Bridge.enqueue_otherQueue differ step fun c hc => (each c hc).1, Bridge.setWaitList_shelf]
    · exact Bridge.admitWaiting_stays head (mt fits_iff.1 full)
  · exact ⟨Bridge.issueStep_split b cls step, Bridge.issueStep_nil b cls⟩
  · refine ⟨fun cls empty => Bridge.admitWaiting_empty empty, fun b' admits => Bridge.pump_foreground admits,
      fun b' none admits => Bridge.pump_migration none admits, fun foreground migration => ?_⟩
    rw [Bridge.pump_grants foreground migration]
    refine ⟨fun port inside b' grants before => findSome?_range inside grants before, fun none => ?_⟩
    rw [List.findSome?_eq_none_iff]
    exact fun port hport => none port (List.mem_range.1 hport)

end Sys2Proof.Machine
end

section
/-! PROOFS. The router: the class of a piece, and how a piece is served in a layout (R44 to R46, R51, R52, R63, R173). -/

namespace Sys2Proof.Machine

open Sys2Proof

/-! The class of a piece (R46). -/

theorem Slot.holds_iff (s : Slot) (row : Nat) : s.holds row = true ↔ s.state ≠ .free ∧ s.row = some row := by
  simp [Slot.holds]

theorem Engine.slotHolding_none {e : Engine} {t : Nat} (none : ∀ i, ¬(e.slot i).holds t = true) :
    e.slotHolding t = .none := by
  unfold Engine.slotHolding
  exact (if_neg (none .a)).trans (if_neg (none .b))

theorem Engine.slotHolding_own {e : Engine} {t : Nat} {i : SlotId} (own : (e.slot i).holds t = true)
    (others : ∀ j, j ≠ i → ¬(e.slot j).holds t = true) : e.slotHolding t = some i := by
  unfold Engine.slotHolding
  cases i with
  | a => exact if_pos own
  | b => exact (if_neg (others .a (by decide))).trans (if_pos own)

/-- The class of a piece whose target row a slot holds, by the slot's state. -/
def SlotState.pieceClass : SlotState → Direction → PieceClass
  | .free, _ | .gather, .read => .current
  | .gather, .write | .full, .write => .through
  | .full, .read | .staging, .read | .writing, .read => .slotRead
  | .staging, .write | .writing, .write => .park

section
variable {e : Engine} {t : Nat} (d : Direction)

theorem Engine.classify_done (done : t < e.doneMark) : e.classify d t = .target := by
  unfold Engine.classify
  exact if_pos done

theorem Engine.classify_free (ahead : e.doneMark ≤ t) (none : e.slotHolding t = none) : e.classify d t = .current := by
  unfold Engine.classify
  rw [if_neg (Nat.not_lt.2 ahead), none]

theorem Engine.classify_holding {i : SlotId} (ahead : e.doneMark ≤ t) (held : e.slotHolding t = some i) :
    e.classify d t = (e.slot i).state.pieceClass d := by
  unfold Engine.classify
  rw [if_neg (Nat.not_lt.2 ahead), held]
  cases state : (e.slot i).state <;> cases d <;> simp only [state, SlotState.pieceClass]

end

/-! The dispatch of a piece (R44, R45). -/

theorem placeOf_row (l : Layout) (d : Descriptor) (chunk offset count : Nat) :
    (placeOf l d chunk offset count).row = rowOf d.columns chunk := rfl

/-- How a piece of an EXPANDING volume is served in each class. -/
def Bridge.serveClass (b : Bridge) (tag : Nat) (p : Piece) (cur tgt : Descriptor) :
    PieceClass → Option SlotId → Bridge
  | .current, _ => b.serveInLayout tag p .current (placeOf .current cur p.chunk (offsetOf cur.chunk p.lba) p.count)
  | .target, _ => b.serveInLayout tag p .target (placeOf .target tgt p.chunk (offsetOf cur.chunk p.lba) p.count)
  | .slotRead, some i => b.serveSlotRead tag p i (positionOf tgt.columns p.chunk) (offsetOf cur.chunk p.lba)
  | .through, some i =>
      b.serveThrough tag p i (positionOf tgt.columns p.chunk)
        (placeOf .current cur p.chunk (offsetOf cur.chunk p.lba) p.count)
  | .park, _ => b.servePark tag p (rowOf tgt.columns p.chunk)
  | .slotRead, none | .through, none => b

section
variable {b : Bridge} {tag index : Nat} {p : Piece} {cur tgt : Descriptor}

theorem Bridge.dispatchPiece_unexpanded (piece : b.piece? tag index = some p) (current : b.engine.current = some cur)
    (volume : b.engine.volume ≠ .expanding) :
    b.dispatchPiece tag index =
      b.serveInLayout tag p .current (placeOf .current cur p.chunk (offsetOf cur.chunk p.lba) p.count) := by
  unfold Bridge.dispatchPiece
  rw [piece, current]
  dsimp only
  split
  next expanding _ => exact absurd expanding volume
  next => rfl

variable (piece : b.piece? tag index = some p) (current : b.engine.current = some cur)
  (volume : b.engine.volume = .expanding) (target : b.engine.target = some tgt)
include piece current volume target

theorem Bridge.dispatchPiece_lost (lost : b.engine.stageLoss = some (rowOf tgt.columns p.chunk)) :
    b.dispatchPiece tag index = b.push [.finishPiece tag index .lost []] := by
  unfold Bridge.dispatchPiece
  rw [piece, current, volume, target]
  exact if_pos (beq_iff_eq.2 lost)

theorem Bridge.dispatchPiece_class (kept : b.engine.stageLoss ≠ some (rowOf tgt.columns p.chunk)) :
    b.dispatchPiece tag index =
      b.serveClass tag p cur tgt (b.engine.classify p.direction (rowOf tgt.columns p.chunk))
        (b.engine.slotHolding (rowOf tgt.columns p.chunk)) := by
  unfold Bridge.dispatchPiece
  rw [piece, current, volume, target]
  refine (if_neg (mt beq_iff_eq.1 kept)).trans ?_
  dsimp only [placeOf_row]
  rcases b.engine.classify p.direction (rowOf tgt.columns p.chunk) with _ | _ | _ | _ | _ <;>
    cases b.engine.slotHolding (rowOf tgt.columns p.chunk) <;> rfl

end

/-! A piece served in a layout (R51, R52, R63). -/

/-- The bridge with the class and place of a piece set, and a CURRENT piece entered in the current-layout set. -/
def Bridge.placePiece (b : Bridge) (tag : Nat) (p : Piece) (cls : PieceClass) (place : Place) : Bridge :=
  let b := b.onPiece tag p.index (fun q => { q with cls := some cls, place := some place })
  if cls == .current then b.enterCurrent tag p.index place.row else b

/-- The DREAD of a read piece of an ONLINE member. -/
def Bridge.plainRead (b : Bridge) (tag : Nat) (p : Piece) (place : Place) : DriveCommand :=
  { kind := .dread, member := b.columnMember place.layout place.column, block := b.placeBlock place, count := place.count
    payload := [], issuer := .plainRead tag p.index }

section
variable (b : Bridge) (tag : Nat) (p : Piece) (cls : PieceClass) (place : Place)

theorem Bridge.placePiece_only :
    b.placePiece tag p cls place =
      { b with port := (b.placePiece tag p cls place).port, router := (b.placePiece tag p cls place).router } := by
  unfold Bridge.placePiece
  dsimp only
  split <;> rfl

variable {b tag p cls place}

theorem Bridge.placePiece_piece (piece : b.piece? tag p.index = some p) :
    (b.placePiece tag p cls place).piece? tag p.index = some { p with cls := some cls, place := some place } := by
  unfold Bridge.placePiece
  dsimp only
  split
  all_goals exact Bridge.onPiece_piece? piece (fun q => { q with cls := some cls, place := some place }) fun _ => rfl

theorem Bridge.placePiece_current :
    (b.placePiece tag p .current place).router.inCurrent =
      b.router.inCurrent ++ [{ tag := tag, index := p.index, row := place.row }] := rfl

theorem Bridge.placePiece_elsewhere (other : cls ≠ .current) :
    (b.placePiece tag p cls place).router.inCurrent = b.router.inCurrent := by
  unfold Bridge.placePiece
  rw [if_neg (by simpa using other)]
  rfl

theorem Bridge.placePiece_online (m : Nat) : (b.placePiece tag p cls place).memberOnline m = b.memberOnline m := by
  rw [Bridge.placePiece_only]
  rfl

theorem Bridge.placePiece_columnMember (l : Layout) (column : Nat) :
    (b.placePiece tag p cls place).columnMember l column = b.columnMember l column := by
  rw [Bridge.placePiece_only]
  rfl

/-- Every piece but a read of an ONLINE member goes to the parity unit. -/
theorem Bridge.serveInLayout_handed
    (other : ¬(p.direction = .read ∧ b.memberOnline (b.columnMember place.layout place.column) = true)) :
    b.serveInLayout tag p cls place =
      (b.placePiece tag p cls place).push [.handOver (.piece tag p.index) (p.direction = .write)] := by
  rw [← Bridge.placePiece_columnMember (tag := tag) (p := p) (cls := cls) (place := place),
    ← Bridge.placePiece_online (tag := tag) (p := p) (cls := cls) (place := place)] at other
  unfold Bridge.serveInLayout
  cases direction : p.direction with
  | write => rfl
  | read => exact if_neg fun online => other ⟨direction, online⟩

theorem Bridge.serveInLayout_read (read : p.direction = .read)
    (online : b.memberOnline (b.columnMember place.layout place.column) = true) :
    b.serveInLayout tag p cls place =
      ((b.placePiece tag p cls place).onPiece tag p.index (fun q => { q with state := .issued })).issueStep .foreground
        [b.plainRead tag p place] := by
  have kept := Bridge.placePiece_only b tag p cls place
  have same : (b.placePiece tag p cls place).plainRead tag p place = b.plainRead tag p place := by rw [kept]; rfl
  rw [← Bridge.placePiece_columnMember (tag := tag) (p := p) (cls := cls) (place := place),
    ← Bridge.placePiece_online (tag := tag) (p := p) (cls := cls) (place := place)] at online
  unfold Bridge.serveInLayout
  rw [read, ← same]
  exact if_pos online

end

@[simp] theorem Bridge.issueStep_piece (b : Bridge) (cls : CommandClass) (step : List DriveCommand) (tag index : Nat) :
    (b.issueStep cls step).piece? tag index = b.piece? tag index := by
  rw [Bridge.issueStep_only]
  rfl

/-- A step to one live member is queued at its port or waits. -/
theorem Bridge.issueStep_oneMember {b : Bridge} {cls : CommandClass} {step : List DriveCommand} {m : Nat}
    (ports : b.shelves.length = 6) (some_ : step ≠ []) (small : m < 96) (live : b.memberFailed m = false)
    (each : ∀ c ∈ step, c.issuer.cls = cls ∧ c.member = m) :
    (((b.issueStep cls step).shelf (m / 16)).queue cls = (b.shelf (m / 16)).queue cls ++ step
        ∧ (b.issueStep cls step).waitList cls = b.waitList cls)
      ∨ ((b.issueStep cls step).shelves = b.shelves
        ∧ (b.issueStep cls step).waitList cls = b.waitList cls ++ [step]) := by
  have alive : ∀ c ∈ step, b.memberFailed c.member = false := fun c hc => (each c hc).2 ▸ live
  by_cases can : b.waitList cls = [] ∧ b.fits cls step = true
  · obtain ⟨empty, fits⟩ := can
    have own : step.filter (fun c => m / 16 < 6 ∧ c.member / 16 = m / 16) = step := by
      rw [List.filter_eq_self]
      exact fun c hc => by simpa [(each c hc).2] using show m / 16 < 6 by omega
    obtain ⟨-, queue, -⟩ := Bridge.enqueue_joins step ports
      (fun c hc => ⟨(each c hc).1, (each c hc).2 ▸ small⟩) (m / 16)
    rw [Bridge.issueStep_queued some_ alive empty fits, queue, own]
    exact .inl ⟨rfl, Bridge.enqueue_waitList _ _ _⟩
  · rw [Bridge.issueStep_waits some_ alive can]
    exact .inr ⟨Bridge.setWaitList_shelves _ _ _, Bridge.setWaitList_waitList _ _ _⟩

/-- Settles O27: the table of R46, the dispatch by class, and a piece served in a layout. -/
theorem routingTable : Obligations.RoutingTable := by
  refine ⟨fun e t => ⟨fun done d => Engine.classify_done d done, fun ahead none d => ?_, fun i ahead row others => ?_⟩,
    fun b tag index p cur piece current => ⟨fun volume => Bridge.dispatchPiece_unexpanded piece current volume,
      fun tgt volume target => ?_⟩, fun b tag p cls place shaped => ?_⟩
  · exact Engine.classify_free d ahead (Engine.slotHolding_none fun i => (mt ((e.slot i).holds_iff t).1 (none i)))
  · have held (occupied : (e.slot i).state ≠ .free) : e.slotHolding t = some i :=
      Engine.slotHolding_own (((e.slot i).holds_iff t).2 ⟨occupied, row⟩)
        fun j other => mt ((e.slot j).holds_iff t).1 (others j other)
    have cls {state : SlotState} (occupied : state ≠ .free) (here : (e.slot i).state = state) (d : Direction) :
        e.classify d t = state.pieceClass d := by
      rw [Engine.classify_holding d ahead (held (here ▸ occupied)), here]
    refine ⟨fun state => ⟨cls (by decide) state .read, cls (by decide) state .write⟩,
      fun state => ⟨cls (by decide) state .read, cls (by decide) state .write⟩, ?_⟩
    rintro (state | state)
    all_goals exact ⟨cls (by decide) state .read, cls (by decide) state .write⟩
  · refine ⟨fun lost => Bridge.dispatchPiece_lost piece current volume target lost, fun kept => ?_⟩
    have served := Bridge.dispatchPiece_class piece current volume target kept
    refine ⟨fun cls => ?_, fun cls => ?_, fun cls => ?_, fun i held => ⟨fun cls => ?_, fun cls => ?_⟩⟩
    · exact served.trans (congrArg (b.serveClass tag p cur tgt · _) cls)
    · exact served.trans (congrArg (b.serveClass tag p cur tgt · _) cls)
    · exact served.trans (congrArg (b.serveClass tag p cur tgt · _) cls)
    · exact served.trans (congrArg₂ (b.serveClass tag p cur tgt) cls held)
    · exact served.trans (congrArg₂ (b.serveClass tag p cur tgt) cls held)
  · intro m dread b'
    obtain ⟨ports, -⟩ := shaped
    have only := Bridge.placePiece_only b tag p cls place
    by_cases reads : p.direction = .read ∧ b.memberOnline m = true
    · obtain ⟨read, online⟩ := reads
      have served : b' = _ := Bridge.serveInLayout_read read online
      have router : b'.router = (b.placePiece tag p cls place).router := by
        rw [served, Bridge.issueStep_router]
        rfl
      have shown : b'.engine = b.engine ∧ b'.members = b.members := by
        rw [served, Bridge.issueStep_engine, Bridge.issueStep_members, only]
        exact ⟨rfl, rfl⟩
      refine ⟨fun piece => ?_, ?_, fun other => ?_, fun handed => ?_, fun _ _ small => ?_, shown⟩
      · rw [served, Bridge.issueStep_piece, if_pos ⟨read, online⟩]
        exact Bridge.onPiece_piece? (Bridge.placePiece_piece piece) (fun q => { q with state := .issued }) fun _ => rfl
      · rintro rfl
        exact congrArg Router.inCurrent router
      · exact (congrArg Router.inCurrent router).trans (Bridge.placePiece_elsewhere other)
      · rcases handed with write | away
        · exact absurd (read.symm.trans write) (by decide)
        · exact absurd (online.symm.trans away) (by decide)
      · have live := Bridge.live_of_online online
        have start : ∃ x : Bridge, b' = x.issueStep .foreground [dread] ∧ x.shelves = b.shelves ∧ x.work = b.work
            ∧ x.members = b.members ∧ x.foregroundWait = b.foregroundWait :=
          ⟨_, served, by rw [only]; exact ⟨rfl, rfl, rfl, rfl⟩⟩
        obtain ⟨x, issued, shelves, work, members, wait⟩ := start
        have alive : x.memberFailed m = false := by rw [← live, Bridge.memberFailed, Bridge.member, members]; rfl
        refine ⟨?_, ?_⟩
        · rw [issued, Bridge.issueStep_work, work]
          simp [dread, alive]
        · have own (q : Nat) : x.shelf q = b.shelf q := by rw [Bridge.shelf, shelves]; rfl
          have queued := Bridge.issueStep_oneMember (cls := .foreground) (step := [dread]) (shelves ▸ ports) (by simp) small
            alive (by simp [dread, Issuer.cls])
          rw [← issued, own, shelves] at queued
          exact queued.imp (fun ⟨queue, list⟩ => ⟨queue, list.trans wait⟩)
            fun ⟨same, list⟩ => ⟨same, list.trans (congrArg (· ++ [[dread]]) wait)⟩
    · have served : b' = _ := Bridge.serveInLayout_handed reads
      have shown : b'.engine = b.engine ∧ b'.members = b.members ∧ b'.shelves = b.shelves
          ∧ b'.work = b.work ++ [.handOver (.piece tag p.index) (p.direction = .write)] := by
        rw [served, only]
        exact ⟨rfl, rfl, rfl, rfl⟩
      obtain ⟨engine, members, shelves, work⟩ := shown
      refine ⟨fun piece => ?_, ?_, fun other => ?_, fun _ => ⟨work, shelves⟩,
        fun read online => absurd ⟨read, online⟩ reads, engine, members⟩
      · rw [served, if_neg reads]
        exact Bridge.placePiece_piece piece
      · rintro rfl
        rw [served]
        exact Bridge.placePiece_current
      · rw [served]
        exact Bridge.placePiece_elsewhere other

end Sys2Proof.Machine
end

section
/-! PROOFS. The router: parked pieces and their release, and pieces served by a row slot (R53, R54, R58, R60, R61). -/

namespace Sys2Proof.Machine

open Sys2Proof

/-! A PARK write (R58, R61). -/

section
variable {b : Bridge} {tag : Nat} {p : Piece} {t : Nat}

theorem Bridge.servePark_failed (failed : b.engine.state = .failed) :
    b.servePark tag p t = b.push [.finishPiece tag p.index .lost []] := if_pos (beq_iff_eq.2 failed)

theorem Bridge.servePark_held (running : b.engine.state ≠ .failed) (room : b.router.hold.length < 32) :
    b.servePark tag p t =
      { b.onPiece tag p.index (fun q => { q with cls := some .park, state := .parked }) with
        router := { b.router with hold := b.router.hold ++ [{ tag := tag, index := p.index, row := t }] } } :=
  (if_neg (mt beq_iff_eq.1 running)).trans (if_pos room)

theorem Bridge.servePark_waits (running : b.engine.state ≠ .failed) (full : 32 ≤ b.router.hold.length) :
    b.servePark tag p t =
      { b.onPiece tag p.index (fun q => { q with cls := some .park, state := .parkWait }) with
        router := { b.router with parkWait := b.router.parkWait ++ [{ tag := tag, index := p.index, row := t }] } } :=
  (if_neg (mt beq_iff_eq.1 running)).trans (if_neg (Nat.not_lt.2 full))

end

/-! The release of the parked pieces (R60). -/

/-- A parked piece at its release: of class TARGET, at its place in the target layout. -/
def Piece.released (p : Piece) (tgt : Descriptor) : Piece :=
  { p with
    cls := some .target, place := some (placeOf .target tgt p.chunk (offsetOf tgt.chunk p.lba) p.count) }

/-- The release of one parked piece. -/
def Bridge.releasePiece (tgt : Descriptor) (b : Bridge) (e : RowPiece) : Bridge :=
  match b.piece? e.tag e.index with
  | none => b
  | some p =>
      (b.onPiece e.tag e.index (fun q =>
        { q with cls := some .target, place := (p.released tgt).place })).push [.handOver (.piece e.tag e.index) true]

theorem Bridge.releaseParked_eq {b : Bridge} {tgt : Descriptor} (target : b.engine.target = some tgt) :
    b.releaseParked =
      (b.router.hold ++ b.router.parkWait).foldl (Bridge.releasePiece tgt) { b with router := b.router.unparked } := by
  unfold Bridge.releaseParked
  rw [target]
  rfl

section
variable {b : Bridge} {tgt : Descriptor} {e : RowPiece} {p : Piece}

theorem Bridge.releasePiece_found (found : b.piece? e.tag e.index = some p) :
    b.releasePiece tgt e =
      (b.onPiece e.tag e.index (fun q =>
        { q with cls := some .target, place := (p.released tgt).place })).push [.handOver (.piece e.tag e.index) true] := by
  unfold Bridge.releasePiece
  rw [found]

theorem Bridge.releasePiece_own (found : b.piece? e.tag e.index = some p) :
    (b.releasePiece tgt e).piece? e.tag e.index = some (p.released tgt) := by
  rw [Bridge.releasePiece_found found]
  exact Bridge.onPiece_piece? found (fun q => { q with cls := some .target, place := (p.released tgt).place }) fun _ => rfl

theorem Bridge.releasePiece_other (found : b.piece? e.tag e.index = some p) {tag index : Nat}
    (other : ¬(e.tag = tag ∧ e.index = index)) : (b.releasePiece tgt e).piece? tag index = b.piece? tag index := by
  rw [Bridge.releasePiece_found found]
  exact Bridge.onPiece_other (fun same => other ⟨same.1.symm, same.2.symm⟩)
    (fun q => { q with cls := some .target, place := (p.released tgt).place }) fun _ => rfl

end

theorem Piece.released_released (p : Piece) (tgt : Descriptor) : (p.released tgt).released tgt = p.released tgt := rfl

/-- What the release of some parked pieces leaves: each of them is released, in order, and no other piece. -/
theorem Bridge.foldl_releasePiece (tgt : Descriptor) (entries : List RowPiece) {b : Bridge}
    (found : ∀ e ∈ entries, (b.piece? e.tag e.index).isSome) :
    (entries.foldl (Bridge.releasePiece tgt) b).router = b.router
      ∧ (entries.foldl (Bridge.releasePiece tgt) b).work =
          b.work ++ entries.map (fun e => .handOver (.piece e.tag e.index) true)
      ∧ ∀ tag index p, b.piece? tag index = some p →
          (entries.foldl (Bridge.releasePiece tgt) b).piece? tag index =
            some (if ∃ e ∈ entries, e.tag = tag ∧ e.index = index then p.released tgt else p) := by
  induction entries generalizing b with
  | nil => simp
  | cons e rest ih =>
    obtain ⟨own, here⟩ := Option.isSome_iff_exists.1 (found e (by simp))
    have kept : ∀ x ∈ rest, ((b.releasePiece tgt e).piece? x.tag x.index).isSome := fun x hx => by
      by_cases same : e.tag = x.tag ∧ e.index = x.index
      · rw [← same.1, ← same.2, Bridge.releasePiece_own here]
        rfl
      · rw [Bridge.releasePiece_other here same]
        exact found x (by simp [hx])
    obtain ⟨router, work, pieces⟩ := ih kept
    have one := Bridge.releasePiece_found (tgt := tgt) here
    refine ⟨router.trans (by rw [one]; rfl), ?_, fun tag index p piece => ?_⟩
    · rw [List.foldl_cons, work, one]
      exact List.append_assoc b.work [_] _
    · rw [List.foldl_cons]
      by_cases same : e.tag = tag ∧ e.index = index
      · obtain ⟨rfl, rfl⟩ := same
        obtain rfl : own = p := Option.some.inj (here.symm.trans piece)
        rw [pieces _ _ _ (Bridge.releasePiece_own here), Piece.released_released, ite_self, if_pos ⟨e, by simp, rfl, rfl⟩]
      · rw [pieces _ _ _ ((Bridge.releasePiece_other here same).trans piece)]
        simp only [List.mem_cons, exists_eq_or_imp, same, false_or]

/-! Blocks spliced into a chunk. -/

section
variable {α : Type} {items new : List α} {start : Nat}

theorem spliceAt_inside (fits : start + new.length ≤ items.length) {k : Nat} (from_ : start ≤ k)
    (below : k < start + new.length) : (spliceAt items start new)[k]? = new[k - start]? := by
  have taken : (items.take start).length = start := List.length_take_of_le (by omega)
  rw [spliceAt_of_fits fits, List.append_assoc, List.getElem?_append_right (by omega),
    List.getElem?_append_left (by omega), taken]

theorem spliceAt_outside (fits : start + new.length ≤ items.length) {k : Nat} (away : k < start ∨ start + new.length ≤ k) :
    (spliceAt items start new)[k]? = items[k]? := by
  have taken : (items.take start).length = start := List.length_take_of_le (by omega)
  rw [spliceAt_of_fits fits]
  rcases away with below | beyond
  · rw [List.append_assoc, List.getElem?_append_left (by omega), List.getElem?_take_of_lt below]
  · rw [List.getElem?_append_right (by rw [List.length_append]; omega), List.length_append, List.getElem?_drop, taken]
    congr 1
    omega

end

/-- Settles O28: where a PARK write goes, the release in order, and the pieces that a slot serves. -/
theorem parkedAndSlotPiecesServed : Obligations.ParkedAndSlotPiecesServed := by
  refine ⟨fun b tag p t => ?_, fun b tgt target found => ?_, fun b tag p i position offset => ?_,
    fun b tag p i position place => ?_⟩
  · intro b' parked
    refine ⟨fun failed => Bridge.servePark_failed failed, fun running => ?_⟩
    rcases Nat.lt_or_ge b.router.hold.length 32 with room | full
    · have served : b' = _ := Bridge.servePark_held running room
      refine ⟨fun _ => ?_, fun full => absurd full (by omega), ?_⟩
      · refine ⟨congrArg (·.router.hold) served, congrArg (·.router.parkWait) served, fun piece => ?_⟩
        rw [served]
        exact Bridge.onPiece_piece? piece (fun q => { q with cls := some .park, state := .parked }) fun _ => rfl
      · rw [served]
        exact ⟨rfl, rfl, rfl⟩
    · have served : b' = _ := Bridge.servePark_waits running full
      refine ⟨fun room => absurd room (by omega), fun _ => ?_, ?_⟩
      · refine ⟨congrArg (·.router.hold) served, congrArg (·.router.parkWait) served, fun piece => ?_⟩
        rw [served]
        exact Bridge.onPiece_piece? piece (fun q => { q with cls := some .park, state := .parkWait }) fun _ => rfl
      · rw [served]
        exact ⟨rfl, rfl, rfl⟩
  · intro n b'
    have released : b' = _ := Bridge.releaseParked_eq target
    obtain ⟨router, work, pieces⟩ := Bridge.foldl_releasePiece tgt (b.router.hold ++ b.router.parkWait)
      (b := { b with router := b.router.unparked }) found
    rw [released]
    exact ⟨congrArg Router.hold router, congrArg Router.parkWait router, (congrArg Router.inCurrent router :), work, pieces⟩
  · exact ⟨fun piece => Bridge.onPiece_piece? piece (fun q => { q with cls := some .slotRead }) fun _ => rfl,
      rfl, rfl, rfl, rfl, rfl⟩
  · intro new s old inside fits b' s'
    have slot : s' = { s with
        data := s.data.modify position (fun c => spliceAt c place.offset new), pending := s.pending + 1 } :=
      Engine.setSlot_slot _ _ _
    have chunk : s'.data.getD position [] = spliceAt old place.offset new := by
      rw [slot]
      simp [old, inside]
    refine ⟨fun piece => ?_, ?_, ?_, ?_, ?_, ?_, fun k other => ?_, fun k from_ below => ?_, fun k away => ?_, fun j other => ?_,
      rfl, rfl, rfl⟩
    · exact Bridge.onPiece_piece?
        (b := b.onSlot i (fun s =>
          { s with data := s.data.modify position (fun c => spliceAt c place.offset new), pending := s.pending + 1 })) piece
        (fun q => { q with cls := some .through, place := some place, slot := some i }) fun _ => rfl
    iterate 4 rw [slot]
    · rw [slot, List.length_modify]
    · rw [slot]
      exact List.getElem?_modify_ne _ _ other.symm
    · rw [chunk, spliceAt_inside fits from_ below]
    · rw [chunk, spliceAt_outside fits away]
    · exact Engine.setSlot_other _ other _

end Sys2Proof.Machine
end

section
/-! PROOFS. The parity unit: the form of service, the commands of a step, how a step is judged, and the health of a layout
(R120 to R126, R128, R130). -/

namespace Sys2Proof.Machine

open Sys2Proof

/-! The columns of a service's row. -/

theorem Bridge.otherColumns_eq (b : Bridge) (s : Service) :
    b.otherColumns s = (List.range (b.layoutColumns s.place.layout)).filter (fun c => c ≠ s.place.column) :=
  List.filter_congr fun c _ => by simp [bne, beq_eq_decide]

theorem Bridge.peerColumns_eq (b : Bridge) (s : Service) :
    b.peerColumns s =
      ((List.range (b.layoutColumns s.place.layout)).filter (fun c => c ≠ s.place.column)).filter
        (fun c => c ≠ s.place.row % b.layoutColumns s.place.layout) := by
  rw [Bridge.peerColumns, Bridge.otherColumns_eq]
  exact List.filter_congr fun c _ => by simp [bne, beq_eq_decide, Bridge.serviceParity, parityColumn]

theorem Bridge.othersOnline_iff (b : Bridge) (s : Service) :
    (b.otherColumns s).all (fun c => b.memberOnline (b.serviceMember s c)) = true ↔
      ∀ c < b.layoutColumns s.place.layout, c ≠ s.place.column →
        b.memberOnline (b.columnMember s.place.layout c) = true := by
  simp [Bridge.otherColumns, Bridge.serviceMember, or_iff_not_imp_left]

theorem Bridge.peersOnline_iff (b : Bridge) (s : Service) :
    (b.peerColumns s).all (fun c => b.memberOnline (b.serviceMember s c)) = true ↔
      ∀ c < b.layoutColumns s.place.layout, c ≠ s.place.column → c ≠ s.place.row % b.layoutColumns s.place.layout →
        b.memberOnline (b.columnMember s.place.layout c) = true := by
  rw [List.all_eq_true, Bridge.peerColumns_eq]
  simp only [List.mem_filter, List.mem_range, decide_eq_true_eq, and_imp]
  exact Iff.rfl

/-! The form of a write piece: the rows of R121. -/

section
variable {b : Bridge} {s : Service}

theorem Bridge.decideWrite_broken (broken : b.broken s.place.layout = true) : b.decideWrite s = none := if_pos broken

variable (whole : ¬b.broken s.place.layout = true)
include whole

theorem Bridge.decideWrite_parityFailed (parity : b.memberFailed (b.serviceMember s (b.serviceParity s)) = true) :
    b.decideWrite s = some .writeData := (if_neg whole).trans (if_pos parity)

variable (parity : ¬b.memberFailed (b.serviceMember s (b.serviceParity s)) = true)
include parity

theorem Bridge.decideWrite_dataFailed (data : b.memberFailed (b.serviceMember s s.place.column) = true) :
    (∀ sum, s.kept = .peers sum → b.decideWrite s = some .recomputeWriteParity)
      ∧ (s.kept = .nothing → b.decideWrite s = some .recomputeReadPeers) := by
  unfold Bridge.decideWrite
  rw [if_neg whole, if_neg parity, if_pos data]
  exact ⟨fun sum kept => by rw [kept], fun kept => by rw [kept]⟩

variable (data : ¬b.memberFailed (b.serviceMember s s.place.column) = true)
include data

theorem Bridge.decideWrite_readable (readable : s.unreadable = false) :
    (∀ d p, s.kept = .old d p → b.decideWrite s = some .rmwWriteNew)
      ∧ (s.kept = .nothing → b.decideWrite s = some .rmwReadOld) := by
  unfold Bridge.decideWrite
  rw [if_neg whole, if_neg parity, if_neg data, if_pos (by rw [readable]; rfl)]
  exact ⟨fun d p kept => by rw [kept], fun kept => by rw [kept]⟩

theorem Bridge.decideWrite_peersOnline (unreadable : s.unreadable = true)
    (online : (b.peerColumns s).all (fun c => b.memberOnline (b.serviceMember s c)) = true) :
    (∀ sum, s.kept = .peers sum → b.decideWrite s = some .recomputeWriteDataParity)
      ∧ (s.kept = .nothing → b.decideWrite s = some .recomputeReadPeers) := by
  unfold Bridge.decideWrite
  rw [if_neg whole, if_neg parity, if_neg data, if_neg (by simp [unreadable]), if_pos online]
  exact ⟨fun sum kept => by rw [kept], fun kept => by rw [kept]⟩

theorem Bridge.decideWrite_peersAway (unreadable : s.unreadable = true)
    (away : ¬(b.peerColumns s).all (fun c => b.memberOnline (b.serviceMember s c)) = true) :
    b.decideWrite s = some .rmwReadOld := by
  unfold Bridge.decideWrite
  rw [if_neg whole, if_neg parity, if_neg data, if_neg (by simp [unreadable]), if_neg away]

end

/-! The form of a read piece or a gather chunk: the rows of R122. -/

section
variable {b : Bridge} {s : Service}

theorem Bridge.decideRead_broken (broken : b.broken s.place.layout = true) : b.decideRead s = none := if_pos broken

variable (whole : ¬b.broken s.place.layout = true)
include whole

theorem Bridge.decideRead_ownFailed (own : b.memberFailed (b.serviceMember s s.place.column) = true) :
    b.decideRead s = some .reconstructReadPeers := (if_neg whole).trans (if_pos own)

variable (own : ¬b.memberFailed (b.serviceMember s s.place.column) = true)
include own

theorem Bridge.decideRead_othersOnline
    (online : (b.otherColumns s).all (fun c => b.memberOnline (b.serviceMember s c)) = true) :
    b.decideRead s = some .reconstructReadPeers :=
  (if_neg whole).trans ((if_neg own).trans (if_pos online))

theorem Bridge.decideRead_othersAway
    (away : ¬(b.otherColumns s).all (fun c => b.memberOnline (b.serviceMember s c)) = true) :
    b.decideRead s = some .rereadReadOwn :=
  (if_neg whole).trans ((if_neg own).trans (if_neg away))

end

/-! A step begins and is judged. -/

theorem Bridge.onService_eq (b : Bridge) (w : Work) (f : Service → Service) :
    b.onService w f =
      b.onParity (fun p => { p with services := p.services.map (fun r => if r.work = w then f r else r) }) := by
  simp only [Bridge.onService, beq_iff_eq]

theorem ServiceStep.writes_iff (step : ServiceStep) :
    step.writes = true ↔ step ∈ [ServiceStep.rmwWriteNew, .recomputeWriteParity, .recomputeWriteDataParity, .writeData] := by
  cases step <;> decide

theorem Bridge.beginStep_eq (b : Bridge) (s : Service) (step : ServiceStep) :
    b.beginStep s step =
      ((b.markIssued s.work).onParity (fun p =>
        { p with services := p.services.map (fun r =>
            if r.work = s.work then
              { r with
                step := step, results := [], outstanding := (b.stepCommands s step).length
                kept := if step ∈ [ServiceStep.rmwWriteNew, .recomputeWriteParity, .recomputeWriteDataParity, .writeData]
                  then r.kept else .nothing }
            else r) })).issueStep s.work.cls (b.stepCommands s step) := by
  simp only [Bridge.beginStep, Bridge.onService_eq, ServiceStep.writes_iff]

theorem Bridge.decideAfter_eq (b : Bridge) (s : Service) :
    b.decideAfter s =
      (b.onParity (fun p =>
        { p with services := p.services.map (fun r => if r.work = s.work then s else r) })).decideAndBegin s := by
  rw [Bridge.decideAfter, Bridge.onService_eq]

section
variable {b : Bridge} {s : Service}

theorem Bridge.decideAndBegin_none (none : b.decide s = .none) : b.decideAndBegin s = b.unserved s.work := by
  unfold Bridge.decideAndBegin
  rw [none]

theorem Bridge.decideAndBegin_some {step : ServiceStep} (form : b.decide s = some step) :
    b.decideAndBegin s = b.beginStep s step := by
  unfold Bridge.decideAndBegin
  rw [form]

theorem Bridge.judgeStep_withdrawn (withdrawn : s.withdrawn = true) : b.judgeStep s = b.endService s.work :=
  if_pos withdrawn

variable (kept : s.withdrawn = false)
include kept

theorem Bridge.judgeStep_readOld (step : s.step = .rmwReadOld) : b.judgeStep s = b.decideAfter s.afterReadOld := by
  simp only [Bridge.judgeStep, kept, step, Bool.false_eq_true, if_false]

theorem Bridge.judgeStep_readPeers (step : s.step = .recomputeReadPeers) :
    b.judgeStep s = b.decideAfter s.afterReadPeers := by
  simp only [Bridge.judgeStep, kept, step, Bool.false_eq_true, if_false]

/-- A write step that is over ends its piece with its outcome. -/
theorem Bridge.judgeStep_write {tag index : Nat} (work : s.work = .piece tag index) (writes : s.step.writes = true) :
    b.judgeStep s =
      b.push [.finishPiece tag index
        (writeOutcome (s.ended .own) (s.ended .parity) (b.broken s.place.layout)) []] := by
  unfold Bridge.judgeStep
  rw [kept, work]
  cases step : s.step
  case rmwWriteNew | recomputeWriteParity | recomputeWriteDataParity | writeData => rfl
  all_goals exact absurd (step ▸ writes) (by decide)

theorem Bridge.judgeStep_reconstruct (step : s.step = .reconstructReadPeers) :
    b.judgeStep s = if s.allGood then b.served s.work s.sum else b.decideAndBegin s := by
  simp only [Bridge.judgeStep, kept, step, Bool.false_eq_true, if_false]

theorem Bridge.judgeStep_reread (step : s.step = .rereadReadOwn) {blocks : List Block}
    (good : s.ended .own = some (.good blocks)) : b.judgeStep s = b.served s.work blocks := by
  simp only [Bridge.judgeStep, kept, step, good, Bool.false_eq_true, if_false]

theorem Bridge.judgeStep_rereadBad (step : s.step = .rereadReadOwn)
    (bad : ∀ blocks, s.ended .own ≠ some (.good blocks)) : b.judgeStep s = b.decideAndBegin s := by
  rcases own : s.ended .own with _ | ⟨blocks⟩ | _ | _
  case some.good => exact absurd own (bad blocks)
  all_goals simp only [Bridge.judgeStep, kept, step, own, Bool.false_eq_true, if_false]

end

/-- Settles O29: the forms row by row, the commands of each step, and how each step begins and is judged. -/
theorem formsAndSteps : Obligations.FormsAndSteps := by
  refine ⟨fun b s => ?_, fun b s => ?_, fun b s => ?_, fun b s step => ?_, fun b s => ?_,
    fun b tag index arrival blocks => ⟨rfl, rfl, rfl, rfl⟩⟩
  · intro layout dataFailed parityFailed peersOnline
    have sound (whole : b.health layout ≠ .broken) : ¬b.broken layout = true := mt (b.broken_iff layout).1 whole
    have online_iff := b.peersOnline_iff s
    refine ⟨fun broken => Bridge.decideWrite_broken ((b.broken_iff layout).2 broken),
      fun whole parity => Bridge.decideWrite_parityFailed (sound whole) parity, fun whole parity data sum => ?_,
      fun whole parity data readable d p => ?_, fun whole parity data unreadable online sum => ?_,
      fun whole parity data unreadable away => ?_⟩
    · have forms := Bridge.decideWrite_dataFailed (sound whole) (Bool.eq_false_iff.1 parity) data
      exact ⟨forms.1 sum, forms.2⟩
    · have forms := Bridge.decideWrite_readable (sound whole) (Bool.eq_false_iff.1 parity) (Bool.eq_false_iff.1 data) readable
      exact ⟨forms.1 d p, forms.2⟩
    · have forms := Bridge.decideWrite_peersOnline (sound whole) (Bool.eq_false_iff.1 parity) (Bool.eq_false_iff.1 data)
        unreadable (online_iff.2 online)
      exact ⟨forms.1 sum, forms.2⟩
    · exact Bridge.decideWrite_peersAway (sound whole) (Bool.eq_false_iff.1 parity) (Bool.eq_false_iff.1 data) unreadable
        (mt online_iff.1 away)
  · intro layout ownFailed othersOnline
    have sound (whole : b.health layout ≠ .broken) : ¬b.broken layout = true := mt (b.broken_iff layout).1 whole
    have online_iff := b.othersOnline_iff s
    exact ⟨fun broken => Bridge.decideRead_broken ((b.broken_iff layout).2 broken),
      fun whole own => Bridge.decideRead_ownFailed (sound whole) own,
      fun whole own online =>
        Bridge.decideRead_othersOnline (sound whole) (Bool.eq_false_iff.1 own) (online_iff.2 online),
      fun whole own away =>
        Bridge.decideRead_othersAway (sound whole) (Bool.eq_false_iff.1 own) (mt online_iff.1 away)⟩
  · intro n own parity command read write others
    refine ⟨rfl, rfl, ?_, rfl, rfl, rfl, ?_, rfl, rfl⟩
    · exact congrArg (List.map fun c => read c (.peer c)) (b.peerColumns_eq s)
    · exact congrArg (List.map fun c => read c (.peer c)) (b.otherColumns_eq s)
  · intro keeps begun
    refine ⟨fun tag index work => ?_, fun arrival work => ?_, Bridge.decideAndBegin_none, Bridge.decideAndBegin_some,
      fun write => if_pos write, fun read => if_neg (Bool.eq_false_iff.1 read)⟩
    · refine (b.beginStep_eq s step).trans ?_
      simp only [begun, keeps, work]
      rfl
    · refine (b.beginStep_eq s step).trans ?_
      simp only [begun, keeps, work]
      rfl
  · intro anew
    refine ⟨Bridge.judgeStep_withdrawn, fun kept => ⟨fun step => ?_, fun step => ?_, fun tag index work writes => ?_,
      fun step runs good => ?_, fun step bad => ?_, fun step blocks good => Bridge.judgeStep_reread kept step good,
      fun step bad => Bridge.judgeStep_rereadBad kept step bad⟩⟩
    · exact (Bridge.judgeStep_readOld kept step).trans (b.decideAfter_eq _)
    · exact (Bridge.judgeStep_readPeers kept step).trans (b.decideAfter_eq _)
    · rw [Bridge.judgeStep_write kept work ((ServiceStep.writes_iff _).2 writes), Bridge.broken, beq_eq_decide]
    · obtain ⟨all, sum⟩ := Service.allGood_of_runs good
      rw [Bridge.judgeStep_reconstruct kept step, if_pos all, sum]
    · rw [Bridge.judgeStep_reconstruct kept step, if_neg (Bool.eq_false_iff.1 (Service.allGood_eq_false bad))]

/-! The outcome of a write step and the health of a layout (R120, R124). -/

theorem failedColumns_eq (members : List Member) (d : Descriptor) :
    failedColumns members d =
      (d.members.filter (fun m => (members.getD m Member.reset).state = .failed
        ∨ (members.getD m Member.reset).state = .stale)).length := by
  refine congrArg List.length (List.filter_congr fun m _ => ?_)
  cases (members.getD m Member.reset).state <;> rfl

theorem layoutHealth_ok {members : List Member} {d : Descriptor} (h : failedColumns members d = 0) :
    layoutHealth members (some d) = .ok := by
  simp only [layoutHealth, h]

theorem layoutHealth_degraded {members : List Member} {d : Descriptor} (h : failedColumns members d = 1) :
    layoutHealth members (some d) = .degraded := by
  simp only [layoutHealth, h]

theorem layoutHealth_broken {members : List Member} {d : Descriptor} (h : 2 ≤ failedColumns members d) :
    layoutHealth members (some d) = .broken := by
  obtain ⟨n, more⟩ := Nat.exists_eq_add_of_le' h
  simp only [layoutHealth, more]

/-- Settles O30: the two tables. -/
theorem writeOutcomeAndHealth : Obligations.WriteOutcomeAndHealth := by
  refine ⟨fun data parity broken blocks => ⟨?_, ?_, ?_⟩, fun members d => ?_⟩
  · rintro rfl
    rfl
  · rintro (rfl | rfl) rfl rfl
    all_goals rfl
  · rintro (rfl | rfl) (rfl | rfl | rfl)
    all_goals simp [writeOutcome, Ending.isGood, Ending.blocks?]
  · intro failed
    have count : failedColumns members d = failed := failedColumns_eq members d
    exact ⟨rfl, fun none => layoutHealth_ok (count.trans none), fun one => layoutHealth_degraded (count.trans one),
      fun more => layoutHealth_broken (more.trans_eq count.symm)⟩

end Sys2Proof.Machine
end

section
/-! PROOFS. The row lock table: asking for a lock, releasing one, and the allocation wait list (R114 to R117). -/

namespace Sys2Proof.Machine

open Sys2Proof

/-! The table stays sound (R114). -/

/-- A new entry of a key that has none keeps the table sound while there is room for it. -/
theorem ParityUnit.takeEntry_sound {p : ParityUnit} (sound : p.locksSound) {layout : Layout} {row : Nat} (w : Work)
    (fresh : ¬p.locks.any (fun e => e.keyed layout row) = true) (room : p.locks.length < Config.lockEntries) :
    ({ p with locks := p.locks ++ [{ layout := layout, row := row, holder := w, waiters := [] }] }
      : ParityUnit).locksSound := by
  obtain ⟨keys, -⟩ := sound
  refine ⟨?_, by simpa using room⟩
  rw [List.map_append, List.nodup_append]
  refine ⟨keys, by simp, fun a ha b hb same => ?_⟩
  obtain ⟨e, he, rfl⟩ := List.mem_map.1 ha
  rw [List.map_singleton, List.mem_singleton] at hb
  exact fresh (List.any_eq_true.2 ⟨e, he, (e.keyed_iff _ _).2 (Prod.mk.inj (same.trans hb))⟩)

/-- Fewer entries of a sound table are a sound table. -/
theorem ParityUnit.locksSound_of_sublist {p q : ParityUnit} (sound : p.locksSound) (fewer : q.locks.Sublist p.locks) :
    q.locksSound := by
  obtain ⟨keys, length⟩ := sound
  exact ⟨keys.sublist (fewer.map _), fewer.length_le.trans length⟩

/-- One entry of a sound table replaced by one of the same key. -/
theorem ParityUnit.locksSound_of_replaced {p q : ParityUnit} {before after : List LockEntry} {e f : LockEntry}
    (sound : p.locksSound) (split : p.locks = before ++ e :: after) (replaced : q.locks = before ++ f :: after)
    (layout : f.layout = e.layout) (row : f.row = e.row) : q.locksSound := by
  obtain ⟨keys, length⟩ := sound
  rw [split] at keys length
  refine ⟨?_, ?_⟩
  · simpa [replaced, layout, row] using keys
  · simpa [replaced] using length

@[simp] theorem Bridge.markIssued_parity (b : Bridge) (w : Work) : (b.markIssued w).parity = b.parity := by
  cases w <;> rfl

@[simp] theorem Bridge.markWaiting_parity (b : Bridge) (w : Work) : (b.markWaiting w).parity = b.parity := by
  cases w <;> rfl

/-- The choice of a form and the begin of its step leave the lock table. -/
theorem Bridge.decideAndBegin_locks (b : Bridge) (s : Service) : (b.decideAndBegin s).parity.locks = b.parity.locks := by
  cases form : b.decide s with
  | none =>
    rw [Bridge.decideAndBegin_none form]
    cases s.work <;> rfl
  | some step =>
    rw [Bridge.decideAndBegin_some form, Bridge.beginStep, Bridge.issueStep_parity]
    exact (congrArg ParityUnit.locks (b.markIssued_parity s.work) :)

theorem Bridge.requestLock_sound {b : Bridge} (sound : b.parity.locksSound) (s : Service) :
    (b.requestLock s).parity.locksSound := by
  cases keyed : b.parity.locks.any (fun e => e.keyed s.place.layout s.place.row) with
  | true =>
    rw [Bridge.requestLock_joins keyed, Bridge.markWaiting_parity]
    exact ParityUnit.joinFifo_sound sound _ _ _
  | false =>
    rcases Nat.lt_or_ge b.parity.locks.length Config.lockEntries with room | full
    · rw [Bridge.requestLock_takes keyed room, ParityUnit.locksSound, Bridge.decideAndBegin_locks]
      exact ParityUnit.takeEntry_sound sound s.work (Bool.eq_false_iff.1 keyed) room
    · rw [Bridge.requestLock_waits keyed full, Bridge.markWaiting_parity]
      exact sound

theorem Bridge.takeAllocation_sound {b : Bridge} (sound : b.parity.locksSound) : b.takeAllocation.parity.locksSound := by
  refine List.foldlRecOn (motive := fun x : Bridge => x.parity.locksSound) b.parity.allocation _ sound fun x kept w _ => ?_
  split
  · exact kept
  · dsimp only
    split
    · exact ParityUnit.joinFifo_sound kept _ _ _
    · next fresh =>
      split
      · next room => exact ParityUnit.takeEntry_sound kept w fresh room
      · exact kept

theorem Bridge.releaseLock_sound {b : Bridge} (sound : b.parity.locksSound) (w : Work) :
    (b.releaseLock w).parity.locksSound := by
  cases first : b.parity.locks.find? (fun e => e.holder == w) with
  | none => rwa [Bridge.releaseLock_none first]
  | some e =>
    obtain ⟨-, before, after, split, -⟩ := List.find?_eq_some_iff_append.1 first
    cases waiting : e.waiters with
    | nil =>
      rw [Bridge.releaseLock_frees sound split first waiting]
      refine Bridge.takeAllocation_sound (ParityUnit.locksSound_of_sublist sound ?_)
      rw [split]
      exact (List.Sublist.refl before).append (List.sublist_cons_self e after)
    | cons next rest =>
      rw [Bridge.releaseLock_passes sound split first waiting]
      exact ParityUnit.locksSound_of_replaced sound split rfl rfl rfl

/-! The words of the statement. -/

theorem locks_keyed_iff (locks : List LockEntry) (layout : Layout) (row : Nat) :
    locks.any (fun e => e.keyed layout row) = true ↔ ∃ e ∈ locks, e.layout = layout ∧ e.row = row := by
  rw [List.any_eq_true]
  exact exists_congr fun e => and_congr_right fun _ => e.keyed_iff layout row

theorem any_keyed (locks : List LockEntry) (layout : Layout) (row : Nat) :
    locks.any (fun e => e.keyed layout row) = locks.any (fun e => e.layout = layout ∧ e.row = row) := by
  rw [Bool.eq_iff_iff, locks_keyed_iff]
  simp

theorem ParityUnit.joinFifo_eq (p : ParityUnit) (layout : Layout) (row : Nat) (w : Work) :
    p.joinFifo layout row w =
      { p with locks := p.locks.map (fun e =>
          if e.layout = layout ∧ e.row = row then { e with waiters := e.waiters ++ [w] } else e) } := by
  simp only [ParityUnit.joinFifo, LockEntry.keyed_iff]

theorem Bridge.markWaiting_piece (b : Bridge) (tag index : Nat) :
    b.markWaiting (.piece tag index) =
      b.onPiece tag index (fun q => { q with state := if q.state = .issued then .issued else .lockWait }) := by
  simp only [Bridge.markWaiting, beq_iff_eq]

theorem Bridge.dropService_eq (b : Bridge) (w : Work) :
    b.dropService w = b.onParity (fun p => { p with services := p.services.filter (fun s => s.work ≠ w) }) := by
  have test : (fun s : Service => s.work != w) = fun s => Decidable.decide (s.work ≠ w) :=
    funext fun s => by simp [bne, beq_eq_decide]
  rw [Bridge.dropService, test]

section
variable {b : Bridge} {w : Work} {write : Bool} {place : Place}

/-- The record of work that reaches the parity unit. -/
def Service.start (w : Work) (write : Bool) (place : Place) : Service :=
  { work := w, write := write, place := place, step := .lockWait, outstanding := 0, results := [], unreadable := false
    kept := .nothing, withdrawn := false }

theorem Bridge.takeHandOver_unserved (none : b.decide (.start w write place) = none) :
    b.takeHandOver w write place = b.unserved w := by
  unfold Bridge.takeHandOver
  dsimp only
  split
  next => rfl
  all_goals
    next form => exact absurd (none.symm.trans form) (by simp)

theorem Bridge.takeHandOver_dataOnly (form : b.decide (.start w write place) = some .writeData) :
    b.takeHandOver w write place =
      (b.onParity (fun p => { p with services := p.services ++ [.start w write place] })).beginStep
        (.start w write place) .writeData := by
  unfold Bridge.takeHandOver
  dsimp only
  split
  next other => exact absurd (form.symm.trans other) (by simp)
  next => rfl
  next step differs other => exact absurd (Option.some.inj (other.symm.trans form)) differs

theorem Bridge.takeHandOver_locked {step : ServiceStep} (form : b.decide (.start w write place) = some step)
    (differs : step ≠ .writeData) :
    b.takeHandOver w write place =
      (b.onParity (fun p => { p with services := p.services ++ [.start w write place] })).requestLock
        (.start w write place) := by
  unfold Bridge.takeHandOver
  dsimp only
  split
  next other => exact absurd (form.symm.trans other) (by simp)
  next other => exact absurd (Option.some.inj (form.symm.trans other)) differs
  next => rfl

end

theorem Bridge.perform_handOver {cfg : Settings} {b : Bridge} {w : Work} {write : Bool} {place : Place}
    (known : b.workPlace w = some place) : b.perform cfg (.handOver w write) = b.takeHandOver w write place := by
  simp only [Bridge.perform, known]

/-- The first entry that some work holds is where the search for its lock ends. -/
theorem find?_holder {before after : List LockEntry} {e : LockEntry} {w : Work} (holder : e.holder = w)
    (others : ∀ x ∈ before, x.holder ≠ w) : (before ++ e :: after).find? (fun x => x.holder == w) = some e :=
  List.find?_eq_some_iff_append.2
    ⟨beq_iff_eq.2 holder, before, after, rfl, fun x hx => by simpa using others x hx⟩

/-- Settles O31: the cases of asking and of releasing, in the statement's words. -/
theorem rowLocksTakenAndReleased : Obligations.RowLocksTakenAndReleased := by
  refine ⟨fun b sound => ⟨Bridge.requestLock_sound sound, Bridge.releaseLock_sound sound⟩,
    fun b tag index arrival => ⟨fun p piece => ?_, fun g c gather current => ?_, fun gone => ?_⟩,
    fun cfg b w write => ⟨fun unknown => ?_, fun place known => ?_⟩, fun b s => ?_, fun b w => ?_,
    fun cfg b w s served => ?_, fun b => ?_⟩
  · rw [Bridge.workPlace, piece, Option.bind_some]
  · rw [Bridge.workPlace, gather, Option.bind_some, Engine.sourcePlace, current, Option.map_some]
  · rw [Bridge.workPlace, gone, Option.bind_none]
  · simp only [Bridge.perform, unknown]
  · intro s kept
    rw [Bridge.perform_handOver known]
    exact ⟨Bridge.takeHandOver_unserved, Bridge.takeHandOver_dataOnly, fun step form => Bridge.takeHandOver_locked form⟩
  · intro keyed waiting
    have keyed_iff := locks_keyed_iff b.parity.locks s.place.layout s.place.row
    have waits (f : ParityUnit → ParityUnit) : (b.onParity f).markWaiting s.work = waiting f := by
      cases work : s.work with
      | piece tag index => simp only [waiting, work, Bridge.markWaiting_piece]
      | chunk arrival => simp only [waiting, work, Bridge.markWaiting]
    refine ⟨fun held => ?_, fun free room => ?_, fun free full => ?_⟩
    · rw [Bridge.requestLock_joins (keyed_iff.2 held), waits]
      exact congrArg waiting (funext fun p => p.joinFifo_eq _ _ _)
    · exact Bridge.requestLock_takes (Bool.eq_false_iff.2 (mt keyed_iff.1 free)) room
    · rw [Bridge.requestLock_waits (Bool.eq_false_iff.2 (mt keyed_iff.1 free)) full, waits]
  · refine ⟨congrArg (Bridge.releaseLock · w) (b.dropService_eq w), fun none => Bridge.releaseLock_none ?_,
      fun before after e sound split holder others => ⟨fun next rest waiting => ?_, fun waiting => ?_⟩⟩
    · exact List.find?_eq_none.2 fun e he => by simpa using none e he
    · exact Bridge.releaseLock_passes sound split (split ▸ find?_holder holder others) waiting
    · exact Bridge.releaseLock_frees sound split (split ▸ find?_holder holder others) waiting
  · simp only [Bridge.perform, Bridge.beginService, served]
  · unfold Bridge.takeAllocation
    refine congrArg (fun f => b.parity.allocation.foldl f (b.onParity (fun p => { p with allocation := [] }))) ?_
    funext x w
    cases served : x.service? w with
    | none => rfl
    | some s =>
      simp only [ParityUnit.joinFifo_eq, any_keyed]
      rfl

end Sys2Proof.Machine
end

section
/-! PROOFS. The restripe engine: the allocation of a row's slot, and its gathers (R74 to R78). -/

namespace Sys2Proof.Machine

open Sys2Proof

/-! When a slot is allocated (R74). -/

theorem Engine.moving_iff (e : Engine) : e.moving = true ↔ e.state = .copy ∨ e.state = .fill := by
  simp [Engine.moving]

theorem Engine.freeSlot_iff (e : Engine) (i : SlotId) :
    e.freeSlot = some i ↔ (e.slot i).state = .free ∧ (i = .b → e.slotA.state ≠ .free) := by
  unfold Engine.freeSlot
  by_cases inA : e.slotA.state = .free <;> by_cases inB : e.slotB.state = .free <;> cases i <;>
    simp [inA, inB, Engine.slot]

theorem Engine.rowToAllocate_iff (e : Engine) (row : Nat) :
    e.rowToAllocate = some row ↔
      row < e.rows ∧ e.slotHolding row = none
        ∧ (row = e.doneMark ∨ row = e.doneMark + 1 ∧ e.slotHolding e.doneMark ≠ none) := by
  unfold Engine.rowToAllocate
  simp only [Bool.and_eq_true, decide_eq_true_eq, Option.isNone_iff_eq_none]
  split
  next first =>
    rw [Option.some.injEq]
    constructor
    · rintro rfl
      exact ⟨first.1, first.2, .inl rfl⟩
    · rintro ⟨-, -, rfl | ⟨-, held⟩⟩
      · rfl
      · exact absurd first.2 held
  next notFirst =>
    split
    next second =>
      rw [Option.some.injEq]
      constructor
      · rintro rfl
        exact ⟨second.1, second.2, .inr ⟨rfl, fun free => notFirst ⟨by omega, free⟩⟩⟩
      · rintro ⟨inside, free, rfl | ⟨rfl, -⟩⟩
        · exact absurd ⟨inside, free⟩ notFirst
        · rfl
    next notSecond =>
      refine iff_of_false (by simp) ?_
      rintro ⟨inside, free, rfl | ⟨rfl, -⟩⟩
      · exact notFirst ⟨inside, free⟩
      · exact notSecond ⟨inside, free⟩

theorem Engine.allocation_iff (e : Engine) (i : SlotId) (row : Nat) :
    e.allocation = some (i, row) ↔
      (e.moving = true ∧ e.cancel = false ∧ e.hold = none) ∧ e.freeSlot = some i ∧ e.rowToAllocate = some row := by
  have gate : (e.moving && !e.cancel && e.hold.isNone) = true ↔ e.moving = true ∧ e.cancel = false ∧ e.hold = none := by
    simp [and_assoc]
  unfold Engine.allocation
  split
  next may =>
    cases e.freeSlot <;> cases e.rowToAllocate <;> simp [gate.1 may]
  next mayNot =>
    exact iff_of_false (by simp) fun ⟨may, _⟩ => mayNot (gate.2 may)

/-! The slot of a row that is allocated (R75, R76). -/

section
variable {e : Engine} {c t : Descriptor} (current : e.current = some c)
include current

theorem Engine.chunk_eq : e.chunk = c.chunk := by rw [Engine.chunk, current]; rfl

section
variable (target : e.target = some t)
include target

omit current in
theorem Engine.writtenPositions_target : e.writtenPositions = t.members.length - 1 := by
  have layout : e.writtenLayout = .target := if_pos (by rw [target]; rfl)
  rw [Engine.writtenPositions, layout, Engine.descriptor, target]
  rfl

theorem Engine.lastCopyRow_eq :
    e.lastCopyRow = some ((c.rows * (c.members.length - 1) - 1) / (t.members.length - 1)) := by
  rw [Engine.lastCopyRow, current, target]
  rfl

theorem Engine.sources_eq (row : Nat) :
    e.sources row = min (t.members.length - 1)
      (c.rows * (c.members.length - 1) - row * (t.members.length - 1)) := by
  rw [Engine.sources, current, target]
  rfl

theorem Engine.rowPhase_copy {row : Nat}
    (copies : row ≤ (c.rows * (c.members.length - 1) - 1) / (t.members.length - 1)) : e.rowPhase row = .copy := by
  rw [Engine.rowPhase, Engine.lastCopyRow_eq current target]
  exact if_pos copies

theorem Engine.rowPhase_fill {row : Nat}
    (fills : (c.rows * (c.members.length - 1) - 1) / (t.members.length - 1) < row) : e.rowPhase row = .fill := by
  rw [Engine.rowPhase, Engine.lastCopyRow_eq current target]
  exact if_neg (Nat.not_le.2 fills)

end

section
variable (target : e.target = none)
include target

theorem Engine.writtenPositions_current : e.writtenPositions = c.members.length - 1 := by
  have layout : e.writtenLayout = .current := if_neg (by rw [target]; decide)
  rw [Engine.writtenPositions, layout, Engine.descriptor, current]
  rfl

theorem Engine.rowPhase_noTarget (row : Nat) : e.rowPhase row = .fill := by
  simp only [Engine.rowPhase, Engine.lastCopyRow, current, target]

end

end

theorem Bridge.allocateRow_fill {b : Bridge} {row : Nat} (fill : b.engine.rowPhase row = .fill) (i : SlotId) :
    b.allocateRow i row = b.onEngine (fun e => e.setSlot i (e.fillSlot row)) := by
  simp only [Bridge.allocateRow, fill]

theorem Bridge.allocateRow_copy {b : Bridge} {row : Nat} (copy : b.engine.rowPhase row = .copy) (i : SlotId) :
    b.allocateRow i row =
      { b.onEngine (fun e => e.setSlot i (e.copySlot row)) with
        port := { b.port with
          gathers := b.port.gathers ++ b.engine.gatherReads b.port.arrivals i row
          arrivals := b.port.arrivals + BitVec.ofNat 32 (b.engine.sources row) } } := by
  simp only [Bridge.allocateRow, copy, Engine.gatherReads, List.length_map, List.length_range]
  rfl

/-! A gather read is released (R75). -/

/-- The bridge with a gather read marked released. -/
def Bridge.gatherReleased (b : Bridge) (g : Gather) : Bridge :=
  { b with port := { b.port with gathers := b.port.gathers.map (fun x =>
      if x.arrival = g.arrival then { x with released := true } else x) } }

theorem Bridge.gatherReleased_eq (b : Bridge) (g : Gather) :
    b.gatherReleased g =
      { b with port := { b.port with gathers := b.port.gathers.map (fun x =>
          if x.arrival == g.arrival then { x with released := true } else x) } } := by
  simp only [Bridge.gatherReleased, beq_iff_eq]

section
variable {b : Bridge} {g : Gather} {place : Place} (source : b.engine.sourcePlace g.chunk = some place)
include source

theorem Bridge.releaseGather_broken (broken : b.broken .current = true) :
    b.releaseGather g = (b.gatherReleased g).failEngine := by
  have same : (b.gatherReleased g).engine.sourcePlace g.chunk = some place := source
  rw [Bridge.gatherReleased_eq] at same ⊢
  unfold Bridge.releaseGather
  dsimp only at same ⊢
  rw [same]
  exact if_pos broken

variable (whole : ¬b.broken .current = true)
include whole

theorem Bridge.releaseGather_online (online : b.memberOnline (b.columnMember .current place.column) = true) :
    b.releaseGather g =
      (b.gatherReleased g).issueStep .migration
        [{ kind := .dread, member := b.columnMember .current place.column, block := b.placeBlock place
           count := place.count, payload := [], issuer := .gather g.arrival }] := by
  have same : (b.gatherReleased g).engine.sourcePlace g.chunk = some place := source
  rw [Bridge.gatherReleased_eq] at same ⊢
  unfold Bridge.releaseGather
  dsimp only at same ⊢
  rw [same]
  exact (if_neg whole).trans (if_pos online)

theorem Bridge.releaseGather_away (away : ¬b.memberOnline (b.columnMember .current place.column) = true) :
    b.releaseGather g = (b.gatherReleased g).push [.handOver (.chunk g.arrival) false] := by
  have same : (b.gatherReleased g).engine.sourcePlace g.chunk = some place := source
  rw [Bridge.gatherReleased_eq] at same ⊢
  unfold Bridge.releaseGather
  dsimp only at same ⊢
  rw [same]
  exact (if_neg whole).trans (if_neg away)

end

/-! A gathered chunk is present (R77, R78). -/

theorem Bridge.gatherPresent_dropped {b : Bridge} {arrival : BitVec 32} (gone : b.gather? arrival = none)
    (blocks : List Block) : b.gatherPresent arrival blocks = b := by
  unfold Bridge.gatherPresent
  rw [gone]

theorem Bridge.gatherPresent_found {b : Bridge} {arrival : BitVec 32} {g : Gather} (found : b.gather? arrival = some g)
    (blocks : List Block) :
    b.gatherPresent arrival blocks =
      ({ b with port := { b.port with gathers := b.port.gathers.filter (fun x => x.arrival ≠ arrival) } } : Bridge).onSlot
        g.slot (fun s => (s.placed g.position blocks).full) := by
  have test : (fun x : Gather => x.arrival != arrival) = fun x => Decidable.decide (x.arrival ≠ arrival) :=
    funext fun x => by simp [bne, beq_eq_decide]
  unfold Bridge.gatherPresent
  rw [found, test]

theorem Slot.full_only (s : Slot) : s.full = { s with state := s.full.state } := by
  unfold Slot.full
  split <;> rfl

theorem Slot.full_cases (s : Slot) :
    (s.state = .gather ∧ s.gathers = 0 ∧ (∀ x ∈ s.present, x = true) → s.full = { s with state := .full })
      ∧ (¬(s.state = .gather ∧ s.gathers = 0 ∧ ∀ x ∈ s.present, x = true) → s.full = s) := by
  have test : (s.state == .gather && s.gathers == 0 && s.present.all (fun p => p)) = true
      ↔ s.state = .gather ∧ s.gathers = 0 ∧ ∀ x ∈ s.present, x = true := by
    simp [and_assoc]
  exact ⟨fun complete => if_pos (test.2 complete), fun incomplete => if_neg (mt test.1 incomplete)⟩

/-- Settles O32: the allocation, the slots of copy and fill rows, and the gathers. -/
theorem rowGathered : Obligations.RowGathered := by
  refine ⟨fun e i row => ?_, fun b i row c t current target => ?_, fun b i row c current target => ?_,
    fun b g c current => ?_, fun b arrival blocks => ⟨rfl, rfl, rfl⟩, fun b arrival blocks => ?_⟩
  · rw [e.allocation_iff, e.moving_iff, e.freeSlot_iff, e.rowToAllocate_iff]
    tauto
  · intro n kc sources b' s
    have positions : b.engine.writtenPositions = n := Engine.writtenPositions_target target
    have count : b.engine.sources row = sources := Engine.sources_eq current target row
    have chunk : b.engine.chunk = c.chunk := Engine.chunk_eq current
    have others (j : SlotId) (other : j ≠ i) (x : Slot) : (b.engine.setSlot i x).slot j = b.engine.slot j :=
      Engine.setSlot_other _ other x
    rcases Nat.lt_or_ge kc row with fills | copies
    · have allocated : b' = _ := Bridge.allocateRow_fill (Engine.rowPhase_fill current target fills) i
      have slot : s = b.engine.fillSlot row := by
        simp only [s, allocated]
        exact Engine.setSlot_slot _ _ _
      rw [Engine.fillSlot, positions, chunk] at slot
      rw [slot, allocated]
      refine ⟨rfl, rfl, rfl, List.length_replicate, List.length_replicate, fun j other => others j other _,
        fun copies => absurd copies (Nat.not_le.2 fills),
        fun _ => ⟨rfl, rfl, rfl, fun p inside => ?_, fun p inside => ?_, rfl⟩⟩
      · exact List.getElem?_replicate_of_lt inside
      · exact List.getElem?_replicate_of_lt inside
    · have allocated : b' = _ := Bridge.allocateRow_copy (Engine.rowPhase_copy current target copies) i
      have slot : s = b.engine.copySlot row := by
        simp only [s, allocated]
        exact Engine.setSlot_slot _ _ _
      rw [Engine.copySlot, positions, count, chunk] at slot
      rw [Engine.gatherReads, positions, count] at allocated
      rw [slot, allocated]
      refine ⟨rfl, rfl, rfl, by rw [List.length_map, List.length_range], List.length_replicate,
        fun j other => others j other _, fun _ => ⟨rfl, rfl, rfl, fun p inside => ?_, fun p _ inside => ?_, rfl, rfl⟩,
        fun fills => absurd fills (Nat.not_lt.2 copies)⟩
      · rw [List.getElem?_map, List.getElem?_range inside]
        rfl
      · exact List.getElem?_replicate_of_lt inside
  · intro b' s
    have positions : b.engine.writtenPositions = c.members.length - 1 := Engine.writtenPositions_current current target
    have chunk : b.engine.chunk = c.chunk := Engine.chunk_eq current
    have allocated : b' = _ := Bridge.allocateRow_fill (Engine.rowPhase_noTarget current target row) i
    have slot : s = b.engine.fillSlot row := by
      simp only [s, allocated]
      exact Engine.setSlot_slot _ _ _
    rw [Engine.fillSlot, positions, chunk] at slot
    rw [slot, allocated]
    exact ⟨rfl, rfl, rfl, rfl, rfl, rfl, rfl, rfl, rfl⟩
  · intro n row m released
    have source : b.engine.sourcePlace g.chunk = some (placeOf .current c g.chunk 0 c.chunk) := by
      rw [Engine.sourcePlace, current]
      rfl
    have member : b.columnMember .current (placeOf .current c g.chunk 0 c.chunk).column = m := by
      rw [Bridge.columnMember, Engine.descriptor, current]
      rfl
    have block : b.placeBlock (placeOf .current c g.chunk 0 c.chunk) = 1024 + row * c.chunk := by
      rw [Bridge.placeBlock, Engine.chunk_eq current]
      rfl
    refine ⟨fun broken => Bridge.releaseGather_broken source ((b.broken_iff _).2 broken), fun whole online => ?_,
      fun whole away => ?_⟩
    · rw [Bridge.releaseGather_online source (mt (b.broken_iff _).1 whole) (member ▸ online), member, block]
      rfl
    · exact Bridge.releaseGather_away source (mt (b.broken_iff _).1 whole) (by rw [member, away]; decide)
  · intro b'
    refine ⟨fun gone => Bridge.gatherPresent_dropped gone blocks, fun g found => ?_⟩
    intro s s' complete
    have present : b' = _ := Bridge.gatherPresent_found found blocks
    have slot : s' = (s.placed g.position blocks).full := by
      simp only [s', present]
      exact Engine.setSlot_slot _ _ _
    have complete_iff : ((s.placed g.position blocks).state = .gather ∧ (s.placed g.position blocks).gathers = 0
        ∧ ∀ x ∈ (s.placed g.position blocks).present, x = true) ↔ complete :=
      and_congr_right fun _ => and_congr_left fun _ => Nat.sub_eq_zero_iff_le
    obtain ⟨ends, stays⟩ := (s.placed g.position blocks).full_cases
    have kept : s' = { s.placed g.position blocks with state := s'.state } := by
      rw [slot]
      exact Slot.full_only _
    rw [kept]
    refine ⟨rfl, rfl, rfl, rfl, rfl, fun whole => ?_, fun incomplete => ?_, fun j other => ?_,
      congrArg (·.port.gathers) present⟩
    · exact (congrArg Slot.state (slot.trans (ends (complete_iff.2 whole))) :)
    · exact (congrArg Slot.state (slot.trans (stays (mt complete_iff.1 incomplete))) :)
    · rw [present]
      exact Engine.setSlot_other _ other _

end Sys2Proof.Machine
end

section
/-! PROOFS. The restripe engine: write-outs and their completion (R80 to R84, R102). -/

namespace Sys2Proof.Machine

open Sys2Proof

/-! What a write-out lays down (R81). -/

theorem Slot.columnData_parity (s : Slot) (n k : Nat) : s.columnData n k (k % n) = s.parity.getD [] :=
  if_pos (beq_self_eq_true _)

theorem Slot.columnData_data {s : Slot} {n k c : Nat} (data : c ≠ k % n) :
    s.columnData n k c = s.data.getD (positionOfColumn n k c) [] := if_neg (by simpa [parityColumn] using data)

/-! The end of a write (R82). -/

section
variable {b : Bridge} {i : SlotId} {k : Nat} (running : b.engine.state ≠ .failed)
  (writing : (b.engine.slot i).state = .writing)
include running writing

theorem Bridge.writeOutEnded_more (more : 2 ≤ (b.engine.slot i).writes) :
    b.writeOutEnded i = b.onSlot i (fun s => { s with writes := s.writes - 1 }) := by
  unfold Bridge.writeOutEnded
  dsimp only
  rw [if_neg (by simp [running, writing]; omega), if_neg (by simp; omega)]

theorem Bridge.writeOutEnded_last (last : (b.engine.slot i).writes = 1) (row : (b.engine.slot i).row = some k) :
    b.writeOutEnded i = b.completeWriteOut i k := by
  unfold Bridge.writeOutEnded
  dsimp only
  rw [if_neg (by simp [running, writing, last]), if_pos (by simp [last]), row]
  rfl

end

theorem Bridge.releasePiece_router (tgt : Descriptor) (b : Bridge) (e : RowPiece) :
    (b.releasePiece tgt e).router = b.router := by
  unfold Bridge.releasePiece
  split <;> rfl

theorem Bridge.releasePiece_engine (tgt : Descriptor) (b : Bridge) (e : RowPiece) :
    (b.releasePiece tgt e).engine = b.engine := by
  unfold Bridge.releasePiece
  split <;> rfl

theorem Bridge.releaseParked_noTarget {b : Bridge} (target : b.engine.target = none) : b.releaseParked = b := by
  unfold Bridge.releaseParked
  rw [target]

/-- The release of the parked pieces leaves the engine, and no piece parked. -/
theorem Bridge.releaseParked_leaves (b : Bridge) :
    b.releaseParked.engine = b.engine ∧ (b.engine.target ≠ none → b.releaseParked.router = b.router.unparked) := by
  cases target : b.engine.target with
  | none => exact ⟨congrArg Bridge.engine (Bridge.releaseParked_noTarget target), absurd rfl⟩
  | some tgt =>
    rw [Bridge.releaseParked_eq target]
    refine ⟨?_, fun _ => ?_⟩
    · exact List.foldlRecOn (motive := fun x : Bridge => x.engine = b.engine) _ _ rfl
        fun x same e _ => (Bridge.releasePiece_engine tgt x e).trans same
    · exact List.foldlRecOn (motive := fun x : Bridge => x.router = b.router.unparked) _ _ rfl
        fun x same e _ => (Bridge.releasePiece_router tgt x e).trans same

/-! The later steps of the completion (R83, R84, R102). -/

theorem Engine.phaseByMark_initializing {e : Engine} (volume : e.volume = .initializing) : e.phaseByMark = .fill :=
  if_pos (beq_iff_eq.2 volume)

theorem Engine.phaseByMark_expanding {e : Engine} {c t : Descriptor} (volume : e.volume = .expanding)
    (current : e.current = some c) (target : e.target = some t) :
    e.phaseByMark =
      if e.doneMark ≤ (c.rows * (c.members.length - 1) - 1) / (t.members.length - 1) then .copy else .fill := by
  unfold Engine.phaseByMark
  rw [if_neg (by rw [volume]; decide), Engine.lastCopyRow_eq current target]

section
variable {cfg : Settings} {b : Bridge} {k : Nat}

theorem Bridge.afterWriteOut_failed (failed : b.engine.state = .failed) : b.afterWriteOut cfg k = b :=
  if_pos (beq_iff_eq.2 failed)

variable (running : b.engine.state ≠ .failed)
include running

theorem Bridge.afterWriteOut_none
    (due : Engine.dueCheckpoint cfg { b.engine with state := b.engine.phaseByMark.engineState } k = none) :
    b.afterWriteOut cfg k = { b with engine := { b.engine with state := b.engine.phaseByMark.engineState } } := by
  unfold Bridge.afterWriteOut
  rw [if_neg (by simpa using running)]
  simp only [Bridge.onEngine, due]

theorem Bridge.afterWriteOut_due {kind : CheckpointKind}
    (due : Engine.dueCheckpoint cfg { b.engine with state := b.engine.phaseByMark.engineState } k = some kind) :
    b.afterWriteOut cfg k =
      Bridge.startCheckpoint { b with engine := { b.engine with state := b.engine.phaseByMark.engineState } } kind none := by
  unfold Bridge.afterWriteOut
  rw [if_neg (by simpa using running)]
  simp only [Bridge.onEngine, due]

end

/-- Settles O33: the columns of a write-out, the end of its writes, and what follows the last one. -/
theorem rowWrittenOut : Obligations.RowWrittenOut := by
  refine ⟨fun s n k p three inside => ?_, fun s n k chunk parity => ?_, fun s c => rfl, fun b i k parity built => ?_,
    fun b i k running writing row => ?_, fun cfg b k => ⟨Bridge.afterWriteOut_failed, fun running state phase => ?_⟩⟩
  · rw [Slot.columnData_data (dataColumn_ne_parityColumn inside), positionOfColumn_dataColumn inside]
  · rw [Slot.columnData_parity, parity]
    rfl
  · intro layout n
    refine List.map_congr_left fun c _ => ?_
    have payload : (b.engine.slot i).columnData n k c =
        if c = k % n then parity else (b.engine.slot i).data.getD ((c + n - k % n - 1) % n) [] := by
      split
      next own =>
        rw [own, Slot.columnData_parity, built]
        rfl
      next other => exact Slot.columnData_data other
    rw [← payload]
    rfl
  · intro b'
    refine ⟨fun more => Bridge.writeOutEnded_more running writing more, fun last => ?_⟩
    intro advanced
    have ended : b' = advanced.releaseParked.push [.afterWriteOut k] :=
      Bridge.writeOutEnded_last running writing last row
    obtain ⟨engine, router⟩ := advanced.releaseParked_leaves
    have advanced_target : advanced.engine.target = b.engine.target := b.engine.setSlot_target i Slot.reset
    rw [ended]
    refine ⟨rfl, fun none => ?_, engine, List.getLast?_concat, fun target => ?_⟩
    · exact congrArg (·.push [.afterWriteOut k]) (Bridge.releaseParked_noTarget (advanced_target.trans none))
    · have emptied := router (advanced_target ▸ target)
      exact ⟨congrArg Router.hold emptied, congrArg Router.parkWait emptied⟩
  · intro e
    have same : b.engine.phaseByMark.engineState = state := by
      rcases phase with ⟨volume, rfl⟩ | ⟨volume, c, t, current, target, rfl⟩
      · rw [Engine.phaseByMark_initializing volume]
        rfl
      · rw [Engine.phaseByMark_expanding volume current target]
        split <;> rfl
    have e_eq : { b.engine with state := b.engine.phaseByMark.engineState } = e := by rw [same]
    refine ⟨fun due => ?_, fun kind due => ?_⟩
    · rw [Bridge.afterWriteOut_none running (e_eq ▸ due), e_eq]
    · rw [Bridge.afterWriteOut_due running (e_eq ▸ due), e_eq]

end Sys2Proof.Machine
end

section
/-! PROOFS. The restripe engine: how the slot of row DM leaves FULL, and the write-out gate (R64, R79, R80, R81, R104). -/

namespace Sys2Proof.Machine

open Sys2Proof

/-! Which slot may leave FULL (R79). -/

theorem Engine.leaving_iff (e : Engine) (i : SlotId) (k : Nat) :
    e.leaving = some (i, k) ↔
      k = e.doneMark ∧ e.slotHolding k = some i ∧ (e.slot i).state = .full ∧ (e.slot i).pending = 0
        ∧ (((e.state = .copy ∨ e.state = .fill) ∧ e.hold = none) ∨ e.state = .recover)
        ∧ e.cancel = false ∧ e.checkpoint = none := by
  have gate : (((e.moving && e.hold.isNone) || e.state == .recover) && !e.cancel && e.checkpoint.isNone) = true ↔
      (((e.state = .copy ∨ e.state = .fill) ∧ e.hold = none) ∨ e.state = .recover)
        ∧ e.cancel = false ∧ e.checkpoint = none := by
    simp [e.moving_iff, and_assoc]
  rw [← gate]
  unfold Engine.leaving Engine.markSlot
  split
  next may =>
    cases held : e.slotHolding e.doneMark with
    | none =>
      refine iff_of_false (by simp) ?_
      rintro ⟨rfl, holds, -⟩
      exact absurd (held.symm.trans holds) (by simp)
    | some j =>
      dsimp only
      split
      next ready =>
        obtain ⟨full, pending⟩ : (e.slot j).state = .full ∧ (e.slot j).pending = 0 := by simpa using ready
        constructor
        · rintro ⟨⟩
          exact ⟨rfl, held, full, pending, may⟩
        · rintro ⟨rfl, holds, -⟩
          rw [Option.some.inj (held.symm.trans holds)]
      next notReady =>
        refine iff_of_false (by simp) ?_
        rintro ⟨rfl, holds, full, pending, -⟩
        obtain rfl := Option.some.inj (held.symm.trans holds)
        exact notReady (by simp [full, pending])
  next mayNot => exact iff_of_false (by simp) fun ⟨_, _, _, _, may⟩ => mayNot may

/-! The engine's next step. -/

section
variable {b : Bridge} (running : b.engine.holdsNow = false)
include running

theorem Bridge.engineAdvance_allocates {i : SlotId} {k : Nat} (due : b.engine.allocation = some (i, k)) :
    b.engineAdvance = some (b.allocateRow i k) := by
  simp only [Bridge.engineAdvance, running, due, Bool.false_eq_true, if_false]

theorem Bridge.engineAdvance_leaves {i : SlotId} {k : Nat} (none : b.engine.allocation = none)
    (leaves : b.engine.leaving = some (i, k)) : b.engineAdvance = some (b.leaveFull i k) := by
  simp only [Bridge.engineAdvance, running, none, leaves, Bool.false_eq_true, if_false]

theorem Bridge.engineAdvance_rests (none : b.engine.allocation = .none) (stays : b.engine.leaving = .none) :
    b.engineAdvance = .none := by
  simp only [Bridge.engineAdvance, running, none, stays, Bool.false_eq_true, if_false]

end

/-! Where the slot goes (R104). -/

section
variable {b : Bridge} {i : SlotId} {k : Nat}

theorem Bridge.leaveFull_noTarget (target : b.engine.target = none) : b.leaveFull i k = b.enterWriting i k := by
  simp [Bridge.leaveFull, Engine.critical, Engine.guardMet, target]

variable {c t : Descriptor} (current : b.engine.current = some c) (target : b.engine.target = some t)
include current target

theorem Bridge.leaveFull_critical (critical : criticalRow c.members.length t.members.length k = true) :
    b.leaveFull i k = (b.onSlot i (fun s => { s with state := .staging })).stageRow := by
  have own : b.engine.critical k = true := by
    rw [Engine.critical, current, target]
    exact critical
  exact if_pos own

theorem Bridge.leaveFull_guardMet (critical : criticalRow c.members.length t.members.length k = false)
    (met : highestTargetRow c.members.length t.members.length k + 1 ≤ b.engine.checkMark) :
    b.leaveFull i k = b.enterWriting i k := by
  have own : b.engine.critical k = false := by
    rw [Engine.critical, current, target]
    exact critical
  have guard_ : b.engine.guardMet k = true := by
    rw [Engine.guardMet, current, target]
    exact decide_eq_true met
  exact (if_neg (Bool.eq_false_iff.1 own)).trans (if_pos guard_)

theorem Bridge.leaveFull_guardOpen (critical : criticalRow c.members.length t.members.length k = false)
    (below : b.engine.checkMark < highestTargetRow c.members.length t.members.length k + 1) :
    b.leaveFull i k = b.startCheckpoint .forced none := by
  have own : b.engine.critical k = false := by
    rw [Engine.critical, current, target]
    exact critical
  have guard_ : b.engine.guardMet k = false := by
    rw [Engine.guardMet, current, target]
    exact decide_eq_false (Nat.not_le.2 below)
  exact (if_neg (Bool.eq_false_iff.1 own)).trans (if_neg (Bool.eq_false_iff.1 guard_))

end

/-! The write-out gate (R64). -/

theorem inCurrent_row (entries : List RowPiece) (k : Nat) :
    entries.any (fun e => e.row == k) = true ↔ ∃ e ∈ entries, e.row = k := by
  simp

section
variable {b : Bridge} {i : SlotId} {k : Nat}

theorem Bridge.askGate_closed (held : ∃ e ∈ b.router.inCurrent, e.row = k) :
    b.askGate i k = { b with router := { b.router with gate := some k } } := if_pos ((inCurrent_row _ _).2 held)

theorem Bridge.askGate_open (clear : ∀ e ∈ b.router.inCurrent, e.row ≠ k) : b.askGate i k = b.issueWriteOut i k :=
  if_neg fun held => by
    obtain ⟨e, he, row⟩ := (inCurrent_row _ _).1 held
    exact clear e he row

theorem Bridge.issueWriteOut_broken (broken : b.health b.engine.writtenLayout = .broken) :
    b.issueWriteOut i k = b.failEngine := if_pos ((b.broken_iff _).2 broken)

theorem Bridge.issueWriteOut_whole (whole : b.health b.engine.writtenLayout ≠ .broken) :
    b.issueWriteOut i k =
      (b.onSlot i (fun s => { s with writes := (b.writeOutStep i k).length })).issueStep .migration
        (b.writeOutStep i k) := if_neg (mt (b.broken_iff _).1 whole)

theorem Bridge.testGate_open (gate : b.router.gate = none) : b.testGate = b := by
  unfold Bridge.testGate
  rw [gate]

theorem Bridge.testGate_held (gate : b.router.gate = some k) (held : ∃ e ∈ b.router.inCurrent, e.row = k) :
    b.testGate = b := by
  unfold Bridge.testGate
  rw [gate]
  exact if_pos ((inCurrent_row _ _).2 held)

theorem Bridge.testGate_opens (gate : b.router.gate = some k) (clear : ∀ e ∈ b.router.inCurrent, e.row ≠ k) :
    b.testGate = { b with router := { b.router with gate := none }, work := b.work ++ [.gateOpened k] } := by
  unfold Bridge.testGate
  rw [gate]
  refine if_neg fun held => ?_
  obtain ⟨e, he, row⟩ := (inCurrent_row _ _).1 held
  exact clear e he row

theorem Bridge.gateOpened_failed (failed : b.engine.state = .failed) : b.gateOpened k = b :=
  if_pos (beq_iff_eq.2 failed)

theorem Bridge.gateOpened_issues (running : b.engine.state ≠ .failed) (held : b.engine.slotHolding k = some i)
    (writing : (b.engine.slot i).state = .writing) : b.gateOpened k = b.issueWriteOut i k := by
  unfold Bridge.gateOpened
  rw [if_neg (mt beq_iff_eq.1 running), held]
  exact if_pos (beq_iff_eq.2 writing)

end

/-- Settles O34: the passage out of FULL, case by case. -/
theorem rowLeavesFull : Obligations.RowLeavesFull :=
  ⟨fun e i k => e.leaving_iff i k,
    fun _ _ _ running => ⟨Bridge.engineAdvance_allocates running, Bridge.engineAdvance_leaves running,
      Bridge.engineAdvance_rests running⟩,
    fun _ _ _ => ⟨Bridge.leaveFull_noTarget, fun _ _ current target =>
      ⟨Bridge.leaveFull_critical current target, Bridge.leaveFull_guardMet current target,
        Bridge.leaveFull_guardOpen current target⟩⟩,
    fun _ _ _ => ⟨rfl, Bridge.askGate_closed, Bridge.askGate_open, Bridge.issueWriteOut_broken,
      Bridge.issueWriteOut_whole⟩,
    fun _ _ => ⟨Bridge.testGate_open, Bridge.testGate_held, Bridge.testGate_opens, Bridge.gateOpened_failed,
      fun _ => Bridge.gateOpened_issues⟩⟩

/-! Staging (R106 to R109). -/

theorem Bridge.columnMember_target {b : Bridge} {t : Descriptor} (target : b.engine.target = some t) (column : Nat) :
    b.columnMember .target column = t.members.getD column 0 := by
  rw [Bridge.columnMember, Engine.descriptor, target]
  rfl

theorem Engine.addedColumns_eq {e : Engine} {c t : Descriptor} (current : e.current = some c)
    (target : e.target = some t) :
    e.addedColumns = (List.range t.members.length).filter (fun i => c.members.length ≤ i) := by
  rw [Engine.addedColumns, current, target]
  rfl

/-- The stage column is the first added one whose member is ONLINE. -/
theorem Bridge.stageColumn_some {b : Bridge} {c t : Descriptor} (current : b.engine.current = some c)
    (target : b.engine.target = some t) (column : Nat) :
    b.stageColumn = some column ↔
      c.members.length ≤ column ∧ column < t.members.length ∧ (b.member (t.members.getD column 0)).state = .online
        ∧ ∀ j, c.members.length ≤ j → j < column → ¬(b.member (t.members.getD j 0)).state = .online := by
  rw [Bridge.stageColumn, Engine.addedColumns_eq current target, List.find?_filter, List.find?_range_eq_some]
  simp only [Bridge.columnMember_target target, decide_eq_true_eq, List.mem_range, Bool.not_eq_true',
    decide_eq_false_iff_not, Bridge.memberOnline_iff]
  constructor
  · rintro ⟨⟨added, online⟩, inside, before⟩
    exact ⟨added, inside, online, fun j low below on => before j below ⟨low, on⟩⟩
  · rintro ⟨added, inside, online, before⟩
    exact ⟨⟨added, online⟩, inside, fun j below ⟨low, on⟩ => before j low below on⟩

theorem Bridge.stageColumn_none {b : Bridge} {c t : Descriptor} (current : b.engine.current = some c)
    (target : b.engine.target = some t) :
    b.stageColumn = none ↔
      ∀ j, c.members.length ≤ j → j < t.members.length → ¬(b.member (t.members.getD j 0)).state = .online := by
  rw [Bridge.stageColumn, Engine.addedColumns_eq current target, List.find?_eq_none]
  simp only [Bridge.columnMember_target target, List.mem_filter, List.mem_range, decide_eq_true_eq,
    Bridge.memberOnline_iff, and_imp]
  exact ⟨fun h j low high => h j high low, fun h j high low => h j low high⟩

section
variable {b : Bridge} {st : Staging} {i : SlotId} {cfg : Settings}

theorem Bridge.stageRow_none (none : b.stageColumn = none) : b.stageRow = b.failEngine := by
  unfold Bridge.stageRow
  rw [none]

theorem Bridge.stageRow_some {column : Nat} (held : b.engine.slotHolding b.engine.doneMark = some i)
    (some_ : b.stageColumn = some column) :
    b.stageRow =
      { b with engine := { b.engine with
          staging := some { column := column, outstanding := (b.stageWrites (b.engine.slot i) column).length
                            failed := false } } }.issueStep .migration (b.stageWrites (b.engine.slot i) column) := by
  unfold Bridge.stageRow Engine.markSlot
  rw [some_, held]
  rfl

/-- The staging after one of its writes has ended. -/
def Staging.ended (st : Staging) (ending : Ending) : Staging :=
  { st with outstanding := st.outstanding - 1, failed := st.failed || !ending.isGood }

variable (staging : b.engine.staging = some st)
include staging

theorem Bridge.stageWriteEnded_more (ending : Ending) (more : 2 ≤ st.outstanding) :
    b.stageWriteEnded ending = b.onEngine (fun e => { e with staging := some (st.ended ending) }) := by
  unfold Bridge.stageWriteEnded
  rw [staging]
  exact if_neg (mt beq_iff_eq.1 (Nat.sub_ne_zero_of_lt more))

theorem Bridge.stageWriteEnded_last (ending : Ending) (last : st.outstanding ≤ 1) :
    b.stageWriteEnded ending =
      (b.onEngine (fun e => { e with staging := some (st.ended ending) })).push [.stageWritten] := by
  unfold Bridge.stageWriteEnded
  rw [staging]
  exact if_pos (by simpa using Nat.sub_eq_zero_of_le last)

theorem Bridge.stageWritten_durable (good : st.failed = false)
    (online : b.memberOnline (b.columnMember .target st.column) = true) :
    b.stageWritten = b.startCheckpoint .stage (some (b.engine.doneMark, st.column)) := by
  unfold Bridge.stageWritten
  rw [staging]
  exact if_pos (by rw [good, online]; rfl)

theorem Bridge.stageWritten_anew
    (not : ¬(st.failed = false ∧ b.memberOnline (b.columnMember .target st.column) = true)) :
    b.stageWritten = b.stageRow := by
  unfold Bridge.stageWritten
  rw [staging]
  exact if_neg (by simpa using not)

variable (held : b.engine.slotHolding b.engine.doneMark = some i)
include held

theorem Bridge.stageDurable_writes (online : b.memberOnline (b.columnMember .target st.column) = true) :
    b.stageDurable = (b.onEngine (fun e => { e with staging := none })).enterWriting i b.engine.doneMark := by
  unfold Bridge.stageDurable Engine.markSlot
  rw [staging, held]
  exact if_pos online

theorem Bridge.stageDurable_anew (away : ¬b.memberOnline (b.columnMember .target st.column) = true) :
    b.stageDurable = b.stageRow := by
  unfold Bridge.stageDurable Engine.markSlot
  rw [staging, held]
  exact if_neg away

end

section
variable {b : Bridge} (idle : b.engine.staging = none)
include idle

theorem Bridge.stageWritten_idle : b.stageWritten = b := by
  unfold Bridge.stageWritten
  rw [idle]

theorem Bridge.stageDurable_idle : b.stageDurable = b := by
  unfold Bridge.stageDurable
  rw [idle]

theorem Bridge.stageWriteEnded_idle (ending : Ending) : b.stageWriteEnded ending = b := by
  unfold Bridge.stageWriteEnded
  rw [idle]

end

/-- Settles O35: the stage column, its writes, and what follows the last of them and the stage checkpoint. -/
theorem criticalRowStaged : Obligations.CriticalRowStaged := by
  refine ⟨fun b c t current target => ?_, fun b i held => ⟨Bridge.stageRow_none, fun column => Bridge.stageRow_some held⟩,
    fun b st ending staging => ?_, fun cfg b st staging => ?_,
    fun cfg b idle => ⟨Bridge.stageWritten_idle idle, Bridge.stageDurable_idle idle⟩,
    fun b ending idle => Bridge.stageWriteEnded_idle idle ending, fun cfg b st i staging held => ?_⟩
  · intro online n
    refine ⟨Bridge.stageColumn_some current target, Bridge.stageColumn_none current target, fun s column => ?_⟩
    rw [Bridge.stageWrites, Engine.writtenPositions_target target, Bridge.columnMember_target target]
    rfl
  · intro after b'
    have same : st.ended ending = after := by cases ending <;> rfl
    refine ⟨fun more => ?_, fun last => ?_⟩
    · rw [Bridge.stageWriteEnded_more staging ending more, same]
      rfl
    · rw [Bridge.stageWriteEnded_last staging ending last, same]
      rfl
  · intro online
    have online_iff : b.memberOnline (b.columnMember .target st.column) = true ↔ online := b.memberOnline_iff _
    exact ⟨fun good on => Bridge.stageWritten_durable staging good (online_iff.2 on),
      fun not => Bridge.stageWritten_anew staging (by rwa [online_iff])⟩
  · intro online
    have online_iff : b.memberOnline (b.columnMember .target st.column) = true ↔ online := b.memberOnline_iff _
    exact ⟨fun on => Bridge.stageDurable_writes staging held (online_iff.2 on),
      fun away => Bridge.stageDurable_anew staging held (mt online_iff.1 away)⟩

end Sys2Proof.Machine
end

section
/-! PROOFS. Checkpoints: their start, when one is due, and how one ends (R98 to R103). -/

namespace Sys2Proof.Machine

open Sys2Proof

/-! What a checkpoint writes, and where (R98, R99). -/

/-- The columns of a layout, none when the engine holds no descriptor of it. -/
def Engine.columnsOf (e : Engine) (l : Layout) : List Nat := ((e.descriptor l).map Descriptor.members).getD []

theorem Bridge.layoutColumns_eq (b : Bridge) (l : Layout) : b.layoutColumns l = (b.engine.columnsOf l).length := by
  rw [Bridge.layoutColumns, Engine.columnsOf]
  cases b.engine.descriptor l <;> rfl

theorem Bridge.onlineMembers_eq (b : Bridge) (l : Layout) :
    b.onlineMembers l = (b.engine.columnsOf l).filter (fun m => (b.member m).state = .online) :=
  List.filter_congr fun m _ => beq_eq_decide (b.member m).state .online

theorem Engine.checkpointLayout_eq (e : Engine) (kind : CheckpointKind) :
    e.checkpointLayout kind = if kind = .cancel ∨ e.target = none then .current else .target := by
  cases target : e.target <;> cases kind <;> simp [Engine.checkpointLayout, Engine.writtenLayout, target]

theorem recordPosition_eq (g : BitVec 64) : recordPosition g = if g.toNat % 2 = 0 then 0 else 8 := by
  have low : g.getLsbD 0 = Decidable.decide (g.toNat % 2 = 1) := by
    rw [BitVec.getLsbD, Nat.testBit_zero]
  rw [recordPosition, low]
  rcases Nat.mod_two_eq_zero_or_one g.toNat with even | odd
  · simp [even]
  · simp [odd]

/-- Settles O36: `startCheckpoint` piece by piece, with the generation that follows the counter's. -/
theorem checkpointStarted : Obligations.CheckpointStarted := by
  intro b kind stage e blank layout columns members entering volume mark current
  refine ⟨nextGeneration e.generation, nextGeneration_below, ?_⟩
  intro record position write c
  have layout_eq : e.checkpointLayout kind = layout := e.checkpointLayout_eq kind
  have members_eq : b.onlineMembers (e.checkpointLayout kind) = members := by
    rw [Bridge.onlineMembers_eq, layout_eq]
    rfl
  have threshold_eq : b.layoutColumns (e.checkpointLayout kind) = columns.length := by
    rw [Bridge.layoutColumns_eq, layout_eq]
    rfl
  have entering_eq : e.entering kind members = entering := by
    cases kind
    case openingStart => exact List.filter_congr fun m _ => by simp
    all_goals rfl
  have volume_eq : e.declaredState kind = volume := by
    cases kind
    case periodic => cases target : e.target <;> simp [Engine.declaredState, volume, target]
    all_goals rfl
  have mark_eq : e.declaredMark kind = mark := by
    cases kind <;> rfl
  have declared_eq : (b.onEngine (fun x => { x with generation := nextGeneration b.engine.generation })).engine.declaredMark kind
      = mark := mark_eq
  have current_eq : e.declaredCurrent kind = current := by
    cases kind
    case final =>
      unfold Engine.declaredCurrent
      simp only [current]
      cases e.target <;> rfl
    all_goals rfl
  have record_eq : e.checkpointRecord kind (nextGeneration e.generation) stage = record := by
    rw [Engine.checkpointRecord, volume_eq, mark_eq, current_eq]
    simp only [record, beq_iff_eq]
  have position_eq : recordPosition (nextGeneration e.generation) = position := recordPosition_eq _
  have parts_eq : members.map (fun m =>
      ({ member := m, outstanding := if entering.contains m then 2 else 1, good := true } : CheckpointPart))
        = members.map (fun m => { member := m, outstanding := if m ∈ entering then 2 else 1, good := true }) := by
    simp only [List.contains_iff_mem]
  unfold Bridge.startCheckpoint
  dsimp only
  rw [threshold_eq, members_eq, entering_eq, record_eq, declared_eq, parts_eq, checkpointStep, position_eq]
  exact ⟨fun few => if_pos few, fun enough => if_neg (Nat.not_lt.2 enough)⟩

/-! The engine's failure (R94). -/

/-- The engine as its failure leaves it: the marks, the descriptors, the volume state and the slots stand. -/
def Engine.failed (e : Engine) : Engine :=
  { e with state := .failed, resume := none, hold := none, cancel := false, checkpoint := none, staging := none }

theorem Bridge.failEngine_failed {b : Bridge} (failed : b.engine.state = .failed) : b.failEngine = b :=
  if_pos (beq_iff_eq.2 failed)

theorem Bridge.failEngine_eq {b : Bridge} (running : b.engine.state ≠ .failed) :
    b.failEngine =
      (({ b with engine := b.engine.failed, port := { b.port with gathers := [] } } : Bridge).dropEngineSteps.withdrawChunks
        |>.loseParked).raise causeFailed := if_neg (mt beq_iff_eq.1 running)

theorem Bridge.failEngine_engine {b : Bridge} (running : b.engine.state ≠ .failed) :
    b.failEngine.engine = b.engine.failed := by
  rw [Bridge.failEngine_eq running, Bridge.withdrawChunks_only]
  rfl

/-! The checkpoint that is due (R102, R103). -/

section
variable {cfg : Settings} {e : Engine} {k : Nat}

theorem Engine.dueCheckpoint_final (done : e.doneMark = e.rows) : e.dueCheckpoint cfg k = some .final :=
  if_pos (beq_iff_eq.2 done)

variable (more : e.doneMark ≠ e.rows)
include more

theorem Engine.dueCheckpoint_clearing (volume : e.volume = .expanding) (critical : e.critical k = true) :
    e.dueCheckpoint cfg k = some .clearing :=
  (if_neg (mt beq_iff_eq.1 more)).trans (if_pos (by rw [volume, critical]; rfl))

variable (plain : ¬(e.volume = .expanding ∧ e.critical k = true))
include plain

theorem Engine.dueCheckpoint_periodic (interval : e.checkMark + cfg.cpInterval ≤ e.doneMark) :
    e.dueCheckpoint cfg k = some .periodic :=
  (if_neg (mt beq_iff_eq.1 more)).trans ((if_neg (by simpa using plain)).trans (if_pos interval))

theorem Engine.dueCheckpoint_none (short : e.doneMark < e.checkMark + cfg.cpInterval) :
    e.dueCheckpoint cfg k = none :=
  (if_neg (mt beq_iff_eq.1 more)).trans ((if_neg (by simpa using plain)).trans (if_neg (Nat.not_le.2 short)))

end

/-! The end of a checkpoint's writes, and of the checkpoint (R98, R100). -/

/-- A checkpoint after one write to a member has ended. -/
def Checkpoint.written (c : Checkpoint) (m : Nat) (good : Bool) : Checkpoint :=
  { c with parts := c.parts.map (fun p =>
      if p.member = m then { p with outstanding := p.outstanding - 1, good := p.good && good } else p) }

theorem CheckpointPart.ended_eq (p : CheckpointPart) (m : Nat) (good : Bool) :
    p.ended m good =
      if p.member = m then { p with outstanding := p.outstanding - 1, good := p.good && good } else p := by
  simp only [CheckpointPart.ended, beq_iff_eq]

section
variable {b : Bridge} {c : Checkpoint} {m : Nat}

theorem Bridge.checkpointWriteEnded_eq (inFlight : b.engine.checkpoint = some c) (ending : Ending) :
    b.checkpointWriteEnded m ending =
      if (c.written m ending.isGood).parts.all (fun p => p.outstanding == 0) then
        (b.onEngine (fun e => { e with checkpoint := some (c.written m ending.isGood) })).checkpointEnded
          (c.written m ending.isGood)
      else b.onEngine (fun e => { e with checkpoint := some (c.written m ending.isGood) }) := by
  have parts : c.parts.map (fun p => p.ended m ending.isGood) = (c.written m ending.isGood).parts :=
    List.map_congr_left fun p _ => p.ended_eq m ending.isGood
  unfold Bridge.checkpointWriteEnded
  rw [inFlight]
  dsimp only
  rw [parts]
  rfl

/-- The bridge once CM and the durable record have taken what a checkpoint declared. -/
def Bridge.declared (b : Bridge) (c : Checkpoint) : Bridge :=
  { b with engine :=
    { b.engine with
      checkpoint := none, checkMark := c.mark
      durable := some { generation := c.generation, mark := c.mark, stage := c.stage } } }

theorem Bridge.checkpointEnded_good (enough : c.threshold ≤ (c.parts.filter (fun p => p.good)).length) :
    b.checkpointEnded c = (b.declared c).checkpointSucceeded c.kind := if_pos enough

theorem Bridge.checkpointEnded_few (few : (c.parts.filter (fun p => p.good)).length < c.threshold) :
    b.checkpointEnded c = b.failEngine := if_neg (Nat.not_le.2 few)

end

theorem Bridge.checkpointSucceeded_plain {kind : CheckpointKind} (notFinal : kind ≠ .final) (notCancel : kind ≠ .cancel)
    (notStage : kind ≠ .stage) (b : Bridge) : b.checkpointSucceeded kind = b := by
  cases kind
  case final => exact absurd rfl notFinal
  case cancel => exact absurd rfl notCancel
  case stage => exact absurd rfl notStage
  all_goals rfl

/-- Settles O37: what is due, and the end of a write and of a checkpoint. -/
theorem checkpointRules : Obligations.CheckpointRules := by
  refine ⟨fun cfg e k => ⟨Engine.dueCheckpoint_final, Engine.dueCheckpoint_clearing, fun more plain below interval => ?_,
    fun more plain short below _ => ?_⟩, fun b c m ending inFlight => ?_, fun b c => ⟨fun enough => ?_, fun few running => ?_⟩⟩
  · exact Engine.dueCheckpoint_periodic more plain (by omega)
  · exact Engine.dueCheckpoint_none more plain (by omega)
  · intro good after b'
    have good_eq : ending.isGood = good := by cases ending <;> rfl
    have ended := Bridge.checkpointWriteEnded_eq (m := m) inFlight ending
    rw [good_eq] at ended
    refine ⟨fun over_ => ended.trans (if_pos ?_), fun left => ended.trans (if_neg ?_)⟩
    · exact List.all_eq_true.2 fun p hp => beq_iff_eq.2 (over_ p hp)
    · obtain ⟨p, hp, still⟩ := left
      exact fun over_ => still (beq_iff_eq.1 (List.all_eq_true.1 over_ p hp))
  · intro b'
    rw [Bridge.checkpointEnded_good enough]
    refine ⟨fun notFinal notCancel notStage => Bridge.checkpointSucceeded_plain notFinal notCancel notStage _,
      fun stage => ?_, fun final target => ?_, fun final target => ?_, fun cancel => ?_⟩
    · rw [stage]
      rfl
    · rw [final]
      exact if_pos (Option.isSome_iff_ne_none.2 target)
    · rw [final]
      exact if_neg (fun some_ => Option.isSome_iff_ne_none.1 some_ target)
    · rw [cancel]
      rfl
  · rw [Bridge.checkpointEnded_few few, Bridge.failEngine_engine running]
    exact ⟨rfl, rfl, rfl, rfl⟩

end Sys2Proof.Machine
end

section
/-! PROOFS. The success of a final and of a cancel checkpoint, and the engine's failure (R87, R91, R94, R118, R119, R145). -/

namespace Sys2Proof.Machine

open Sys2Proof

/-! The pieces in flight at a final checkpoint (R87). -/

theorem Piece.targetInFlight_eq : Piece.targetInFlight = fun p => Decidable.decide (p.state ≠ .done ∧ p.cls = some .target) :=
  funext fun p => by simp [Piece.targetInFlight, Piece.outstanding, bne, beq_eq_decide]

/-- A TARGET piece in flight has its place in the new current layout, and every other piece stands. -/
def Piece.moved (p : Piece) : Piece :=
  if p.targetInFlight then { p with place := p.place.map Place.afterFinal } else p

theorem Piece.moved_index (p : Piece) : p.moved.index = p.index := by
  unfold Piece.moved
  split <;> rfl

theorem ArrayPort.afterFinal_piece {b : Bridge} {tag index : Nat} {p : Piece} (found : b.piece? tag index = some p) :
    (b.port.afterFinal.request? tag).bind (fun r => r.pieces.find? (fun p => p.index == index)) = some p.moved := by
  obtain ⟨r, request, piece⟩ := Option.bind_eq_some_iff.1 found
  have moved : b.port.afterFinal.request? tag = some { r with pieces := r.pieces.map Piece.moved } := by
    have found := find?_map_key b.port.table (fun r => { r with pieces := r.pieces.map Piece.moved })
      (fun r => r.tag == tag) fun _ => rfl
    exact found.trans (congrArg (Option.map _) request)
  rw [moved, Option.bind_some]
  dsimp only
  rw [find?_map_key r.pieces Piece.moved (fun p => p.index == index) fun p => by rw [p.moved_index], piece, Option.map_some]

/-! The members after the end of an expansion (R145). -/

theorem mapped_member {members : List Member} {m : Nat} (inside : m < members.length) (f : Member → Member) :
    (members.map f).getD m Member.reset = f (members.getD m Member.reset) := by
  simp [inside]

theorem Member.afterFinal_columns (e : Member) :
    e.afterFinal.state = e.state ∧ e.afterFinal.targetColumn = none
      ∧ e.afterFinal.currentColumn = e.targetColumn.orElse (fun _ => e.currentColumn) := by
  cases target : e.targetColumn <;> simp [Member.afterFinal, target]

theorem Member.afterCancel_present {e : Member} (online : e.state = .online) (target : e.targetColumn.isSome = true)
    (current : e.currentColumn = none) : e.afterCancel.state = .present :=
  if_pos (by rw [online, target, current]; rfl)

theorem Member.afterCancel_kept {e : Member}
    (other : e.state ≠ .online ∨ e.currentColumn ≠ none ∨ e.targetColumn = none) : e.afterCancel.state = e.state := by
  refine if_neg fun all => ?_
  obtain ⟨⟨online, target⟩, current⟩ : (e.state = .online ∧ e.targetColumn.isSome = true) ∧ e.currentColumn = none := by
    simpa using all
  rcases other with away | held | none
  · exact away online
  · exact held current
  · rw [none] at target
    exact absurd target (by decide)

/-- Settles O38: the ends of an initialization, of an expansion and of a cancelled one, field by field. -/
theorem finalAndCancelCheckpoints : Obligations.FinalAndCancelCheckpoints := by
  refine ⟨fun b target => ⟨rfl, rfl, rfl, rfl, rfl, rfl, rfl, rfl, rfl, rfl, rfl, rfl, rfl⟩, fun b t target => ⟨?_, ?_⟩⟩
  · intro b'
    refine ⟨rfl, rfl, rfl, rfl, target, rfl, rfl, rfl, rfl, rfl, rfl, rfl, ?_, List.length_map _, fun m inside => ?_⟩
    · intro inFlight
      have same : Piece.targetInFlight = inFlight := Piece.targetInFlight_eq
      refine ⟨?_, fun tag index p found => ?_⟩
      · rw [← same]
        rfl
      · rw [← same]
        exact ArrayPort.afterFinal_piece found
    · have member : b'.member m = (b.member m).afterFinal := mapped_member inside Member.afterFinal
      rw [member]
      exact (b.member m).afterFinal_columns
  · intro b'
    refine ⟨rfl, rfl, rfl, rfl, rfl, rfl, rfl, rfl, rfl, rfl, fun m inside => ?_⟩
    have member : b'.member m = (b.member m).afterCancel := mapped_member inside Member.afterCancel
    rw [member]
    exact ⟨rfl, rfl, rfl, rfl, Member.afterCancel_present, Member.afterCancel_kept⟩

/-! The engine's failure (R94). -/

/-- A step that serves some work, in the words of the statement. -/
theorem stepServes_eq (w : Work) (step : List DriveCommand) :
    stepServes w step = step.any (fun c => match c.issuer with
      | .service x _ => x = w
      | _ => false) := by
  refine congrArg step.any (funext fun c => ?_)
  cases c.issuer <;> rfl

/-- The services after the engine's waiting steps have been dropped: a chunk whose step waited has no command
outstanding. -/
def Bridge.stepsDropped (b : Bridge) : Bridge :=
  b.onParity (fun p =>
    { p with services := p.services.map (fun s =>
        if (b.migrationWait.filter engineStep).any (stepServes s.work) then { s with outstanding := 0 } else s) })

section
variable {b : Bridge} (running : b.engine.state ≠ .failed)
include running

theorem Bridge.failEngine_locks :
    b.failEngine.parity = b.stepsDropped.withdrawChunks.parity
      ∧ b.failEngine.work = b.stepsDropped.withdrawChunks.work
        ++ (b.router.hold ++ b.router.parkWait).map (fun e => Action.finishPiece e.tag e.index .lost []) := by
  have same := Bridge.withdrawChunks_sameLocks
    (b := ({ b with engine := b.engine.failed, port := { b.port with gathers := [] } } : Bridge).dropEngineSteps)
    (c := b.stepsDropped) ⟨rfl, rfl⟩
  obtain ⟨parity, work⟩ := same
  rw [Bridge.failEngine_eq running, ← parity, ← work]
  refine ⟨rfl, ?_⟩
  rw [Bridge.withdrawChunks_only]
  rfl

theorem Bridge.failEngine_rest :
    b.failEngine.port = { b.port with gathers := [] } ∧ b.failEngine.causes = b.causes ||| 0x10
      ∧ b.failEngine.migrationWait = b.migrationWait.filter (fun step => !engineStep step)
      ∧ b.failEngine.router = b.router.unparked := by
  rw [Bridge.failEngine_eq running, Bridge.withdrawChunks_only]
  exact ⟨rfl, rfl, rfl, rfl⟩

end

/-! The withdrawal of the engine's lock work (R118). -/

theorem ParityUnit.isHolder_eq (p : ParityUnit) : p.isHolder = fun w => p.locks.any (fun e => e.holder = w) :=
  funext fun w => congrArg p.locks.any (funext fun e => beq_eq_decide e.holder w)

/-- The bridge with no gather chunk waiting for a lock, and the chunks that hold one withdrawn. -/
def Bridge.chunksOut (b : Bridge) : Bridge :=
  b.onParity (fun p =>
    { p with
      locks := p.locks.map (fun e => { e with waiters := e.waiters.filter (fun w => !w.isChunk) })
      allocation := p.allocation.filter (fun w => !w.isChunk)
      services := (p.services.filter (fun s => !s.work.isChunk || b.parity.isHolder s.work)).map
        (fun s => if s.work.isChunk then { s with withdrawn := true } else s) })

/-- The chunks that hold a lock with no command outstanding. -/
def Bridge.idleChunks (b : Bridge) : List Work :=
  ((b.parity.services.filter (fun s => s.work.isChunk)).filter
    (fun s => s.outstanding = 0 ∧ b.parity.isHolder s.work = true)).map Service.work

/-- A service whose gather chunk has been withdrawn, any other as it is. -/
def Service.withdrawnChunk (s : Service) : Service := if s.work.isChunk then { s with withdrawn := true } else s

theorem Service.withdrawnChunk_work (s : Service) : s.withdrawnChunk.work = s.work := by
  unfold Service.withdrawnChunk
  split <;> rfl

theorem Bridge.chunksOut_services (b : Bridge) :
    b.chunksOut.parity.services =
      (b.parity.services.filter (fun s => !s.work.isChunk || b.parity.isHolder s.work)).map Service.withdrawnChunk := rfl

theorem Bridge.withdrawChunks_eq (b : Bridge) : b.withdrawChunks = b.idleChunks.foldl Bridge.endService b.chunksOut := by
  have idle : (fun s : Service => s.outstanding == 0 && b.parity.isHolder s.work)
      = fun s => Decidable.decide (s.outstanding = 0 ∧ b.parity.isHolder s.work = true) := by
    funext s
    rw [beq_eq_decide, Bool.decide_and, Bool.decide_eq_true]
  have stays : (fun s : Service => !(s.work.isChunk && !b.parity.isHolder s.work))
      = fun s => !s.work.isChunk || b.parity.isHolder s.work := by
    funext s
    rw [Bool.not_and, Bool.not_not]
  unfold Bridge.withdrawChunks
  dsimp only
  rw [idle]
  unfold Bridge.idleChunks Bridge.chunksOut
  rw [List.foldl_map]
  simp only [Bridge.onParity, stays]

theorem Bridge.chunksOut_chunkFree {b : Bridge} (sound : b.parity.locksSound) : b.chunksOut.parity.chunkFree := by
  obtain ⟨keys, length⟩ := sound
  refine ⟨⟨?_, ?_⟩, fun w hw => ?_, fun e he w hw => ?_⟩
  · rw [Bridge.chunksOut, Bridge.onParity, List.map_map]
    exact keys
  · rw [Bridge.chunksOut, Bridge.onParity, List.length_map]
    exact length
  · simpa using (List.mem_filter.1 hw).2
  · obtain ⟨x, -, rfl⟩ := List.mem_map.1 he
    simpa using (List.mem_filter.1 hw).2

theorem Bridge.mem_idleChunks (b : Bridge) (w : Work) :
    w ∈ b.idleChunks ↔
      b.parity.isHolder w = true ∧ ∃ s ∈ b.parity.services, s.work.isChunk = true ∧ s.work = w ∧ s.outstanding = 0 := by
  simp only [Bridge.idleChunks, List.mem_map, List.mem_filter, decide_eq_true_eq]
  constructor
  · rintro ⟨s, ⟨⟨hs, chunk⟩, zero, holds⟩, rfl⟩
    exact ⟨holds, s, hs, chunk, rfl, zero⟩
  · rintro ⟨holds, s, hs, chunk, rfl, zero⟩
    exact ⟨s, ⟨⟨hs, chunk⟩, zero, holds⟩, rfl⟩

theorem Bridge.service?_work {b : Bridge} {w : Work} {s : Service} (served : b.service? w = some s) : s.work = w := by
  simpa using List.find?_some served

theorem Bridge.decideAgain_withdrawn {b : Bridge} {w : Work} {s : Service} (served : b.service? w = some s)
    (withdrawn : s.withdrawn = true) : b.decideAgain w = b.endService w := by
  simp only [Bridge.decideAgain, served, withdrawn, if_true]

/-- Settles O39: what the failure changes, and what the withdrawal of the lock work leaves. -/
theorem engineFailureEffects : Obligations.EngineFailureEffects := by
  refine ⟨fun b => Bridge.failEngine_failed, fun b running => ?_, fun b sound => ?_, fun cfg b w s served withdrawn => ?_⟩
  · intro b' dropped waited withdrawn
    have withdrawn_eq : b.stepsDropped.withdrawChunks = withdrawn := by
      have test : (fun s : Service => dropped.any (stepServes s.work)) = waited :=
        funext fun s => congrArg dropped.any (funext fun step => stepServes_eq s.work step)
      refine congrArg (fun test : Service → Bool => (b.onParity (fun p =>
        { p with services := p.services.map (fun s => if test s then { s with outstanding := 0 } else s) })).withdrawChunks)
        test
    obtain ⟨parity, work⟩ := Bridge.failEngine_locks running
    obtain ⟨port, causes, migration, router⟩ := Bridge.failEngine_rest running
    rw [withdrawn_eq] at parity work
    exact ⟨Bridge.failEngine_engine running, port, causes, Bridge.failEngine_foregroundWait b, Bridge.failEngine_shelves b,
      migration, congrArg Router.hold router, congrArg Router.parkWait router, (congrArg Router.inCurrent router :),
      Bridge.failEngine_members b, parity, work⟩
  · intro b' chunks holds idle
    have holder : b.parity.isHolder = holds := b.parity.isHolder_eq
    have withdrawn : b' = b.idleChunks.foldl Bridge.endService b.chunksOut := b.withdrawChunks_eq
    obtain ⟨⟨free, kept⟩, services⟩ := Bridge.foldl_endService_follows b.idleChunks (Bridge.chunksOut_chunkFree sound)
    rw [← withdrawn] at free kept services
    have idle_iff (w : Work) : idle w = true ↔
        ∃ s ∈ b.parity.services, s.work.isChunk = true ∧ s.work = w ∧ s.outstanding = 0 := by
      simp only [idle, chunks, List.any_eq_true, List.mem_filter, decide_eq_true_eq, and_assoc]
    have mem_idle (w : Work) : w ∈ b.idleChunks ↔ holds w = true ∧ idle w = true := by
      rw [b.mem_idleChunks, idle_iff, holder]
    refine ⟨?_, ?_, free.allocation, free.waiters, fun e he busy => ?_⟩
    · rw [withdrawn, Bridge.idleChunks, Bridge.chunksOut, holder]
    · rw [services, Bridge.chunksOut_services, List.filter_map, List.filter_filter]
      refine congrArg (List.map _) (List.filter_congr fun s hs => ?_)
      have chunk (yes : idle s.work = true) : s.work.isChunk = true := by
        obtain ⟨x, -, own, same, -⟩ := (idle_iff s.work).1 yes
        exact same ▸ own
      have left : Decidable.decide (s.withdrawnChunk.work ∉ b.idleChunks) = !(holds s.work && idle s.work) := by
        rw [Bool.eq_iff_iff, decide_eq_true_eq, s.withdrawnChunk_work, mem_idle, ← Bool.and_eq_true, Bool.not_eq_true',
          Bool.not_eq_true]
      rw [Function.comp_apply, left, holder]
      cases own : s.work.isChunk with
      | false =>
        have busy : idle s.work = false := Bool.eq_false_iff.2 fun yes => absurd (own.symm.trans (chunk yes)) (by decide)
        rw [busy]
        simp
      | true =>
        generalize holds s.work = h
        generalize idle s.work = i
        cases h <;> cases i <;> rfl
    · have apart : e.holder ∉ b.idleChunks := fun inside => by
        rw [((mem_idle e.holder).1 inside).2] at busy
        exact absurd busy (by decide)
      exact kept { e with waiters := e.waiters.filter (fun w => !w.isChunk) } apart
        ⟨_, List.mem_map_of_mem he, rfl, rfl, rfl, List.prefix_refl _⟩
  · have own : s.work = w := Bridge.service?_work served
    refine ⟨fun role ending => ?_, ?_, ?_⟩
    · rw [Bridge.stepCommandEnded_some served]
      refine ⟨rfl, rfl, fun more => ?_, fun last => ?_⟩
      · rw [if_neg (Nat.not_le.2 more), Bridge.push_nil]
        rfl
      · rw [if_pos last]
        rfl
    · exact (Bridge.judgeWork_of_service served).trans (own ▸ Bridge.judgeStep_withdrawn withdrawn)
    · exact own ▸ Bridge.decideAgain_withdrawn (own ▸ served) withdrawn

end Sys2Proof.Machine
end

section
/-! PROOFS. Discovery and ADMIT: how a probe and a record read are answered (R134, R150, R151, R164, R165, R198). -/

namespace Sys2Proof.Machine

open Sys2Proof

/-! An answer to a probe (R198). -/

theorem answerOf_probe_good {c : DriveCommand} {status : Byte} {body : Body} (probe : c.kind = .dprobe) :
    answerOf c status body = .good ↔ status = 0x00 ∧ 6 ≤ body.length := by
  unfold answerOf
  rw [probe]
  by_cases zero : status = 0x00
  · rw [if_pos (beq_iff_eq.2 zero)]
    by_cases six : 6 ≤ body.length <;> simp [zero, six]
  · rw [if_neg (mt beq_iff_eq.1 zero)]
    split
    all_goals exact iff_of_false (by simp) fun good => zero good.1

section
variable {cfg : Settings} {b : Bridge} {port : Nat} {e : TagEntry} {status : Byte} {body : Body}

theorem Bridge.answerTaken_probe_good (probe : e.command.kind = .dprobe) (good : status = 0x00 ∧ 6 ≤ body.length) :
    b.answerTaken cfg port e status body =
      (b.freeTag port e.tag).probeEnded e.command (some (answeredCapacity body)) := by
  unfold Bridge.answerTaken
  simp only [probe, (answerOf_probe_good probe).2 good]
  rfl

theorem Bridge.answerTaken_probe_bad (probe : e.command.kind = .dprobe) (bad : ¬(status = 0x00 ∧ 6 ≤ body.length)) :
    b.answerTaken cfg port e status body = (b.freeTag port e.tag).probeEnded e.command none := by
  have answer := mt (answerOf_probe_good probe).1 bad
  unfold Bridge.answerTaken
  simp only [probe, beq_iff_eq, if_neg answer]

theorem Bridge.probeEnded_admit (issuer : e.command.issuer = .admitProbe) (capacity : Option Nat) :
    b.probeEnded e.command capacity = b.admitProbeEnded e.command.member capacity := by
  simp only [Bridge.probeEnded, issuer]

theorem Bridge.probeEnded_discovery (issuer : e.command.issuer = .discoveryProbe) (capacity : Option Nat) :
    b.probeEnded e.command capacity = b.discoveryProbeEnded e.command.member capacity := by
  simp only [Bridge.probeEnded, issuer]

theorem Bridge.answerTaken_record {odd : Bool} (kind : e.command.kind = .dread)
    (issuer : e.command.issuer = .recordRead odd) :
    b.answerTaken cfg port e status body =
      (b.freeTag port e.tag).recordReadEnded e.command.member odd
        (recordOutcome (answerOf e.command status body) body.blocks) := by
  simp only [Bridge.answerTaken, kind, issuer]

end

/-! What the end of a probe leaves of the other members. -/

@[simp] theorem Bridge.issueStep_member (b : Bridge) (cls : CommandClass) (step : List DriveCommand) (m : Nat) :
    (b.issueStep cls step).member m = b.member m := by
  rw [Bridge.issueStep_only]
  rfl

theorem Bridge.discoveryProbeEnded_other {m k : Nat} (other : k ≠ m) (b : Bridge) (capacity : Option Nat) :
    (b.discoveryProbeEnded m capacity).member k = b.member k := by
  have onMember (f : Member → Member) : (b.onMember m f).member k = b.member k := Bridge.onMember_other other b f
  cases running : b.discovery with
  | none => simp only [Bridge.discoveryProbeEnded, running, Option.isNone_none, if_true]
  | some d =>
    cases capacity with
    | none =>
      rw [Bridge.discoveryProbeEnded_none running, Bridge.chooseWhenOver_member]
      exact onMember _
    | some c =>
      rcases Nat.lt_or_ge c Config.firstDataBlock with small | large
      · rw [Bridge.discoveryProbeEnded_small running small, Bridge.chooseWhenOver_member]
        exact onMember _
      · rw [Bridge.discoveryProbeEnded_reads running large, Bridge.issueStep_member]
        exact onMember _

theorem Bridge.probeEnded_other {c : DriveCommand} {k : Nat} (other : k ≠ c.member) (b : Bridge) (capacity : Option Nat) :
    (b.probeEnded c capacity).member k = b.member k := by
  unfold Bridge.probeEnded
  split
  · exact Bridge.onMember_other other b _
  · exact Bridge.discoveryProbeEnded_other other b capacity

/-! The end of a discovery probe whose member is followed by nothing, and of one followed by its record reads. -/

/-- What discovery holds of a member of which nothing is left open. -/
def DiscoveryMember.closed (probe : ProbeState) : DiscoveryMember := { probe := probe, block0 := .ended, block8 := .ended }

/-- What discovery holds of a member whose record reads are handed over. -/
def DiscoveryMember.reading (capacity : Nat) : DiscoveryMember :=
  { probe := .answered capacity, block0 := .pending, block8 := .pending }

theorem DiscoveryMember.closed_over {probe : ProbeState} (ended : probe ≠ .pending) :
    (DiscoveryMember.closed probe).over = true := by
  cases probe
  case pending => exact absurd rfl ended
  all_goals rfl

theorem Bridge.probed_shelves (b : Bridge) (m : Nat) (entry : Member) (d : Discovery) :
    (b.probed m entry d).shelves = b.shelves := rfl

theorem Bridge.freeTag_migration (b : Bridge) (port tag q : Nat) :
    ((b.freeTag port tag).shelf q).migration = (b.shelf q).migration := by
  by_cases here : q = port
  · subst here
    rcases Nat.lt_or_ge q b.shelves.length with inside | outside
    · rw [Bridge.freeTag, Bridge.onShelf_shelf inside]
    · simp [Bridge.freeTag, Bridge.onShelf, Bridge.shelf, Nat.not_lt.2 outside]
  · rw [Bridge.freeTag, Bridge.onShelf_other here]

section
variable {b : Bridge} {d : Discovery} {m : Nat} (running : b.discovery = some d) (length : m < d.members.length)
  (shaped : m < b.members.length)
include running length shaped

/-- A probe that leaves nothing of its member open. -/
theorem Bridge.probeClosed {entry : Member} {probe : ProbeState} (ended : probe ≠ .pending) :
    let b' := (b.probed m entry (d.onMember m (fun _ => .closed probe))).chooseWhenOver
    ∃ d', b'.discovery = some d' ∧ (∀ k, k ≠ m → d'.member k = d.member k) ∧ d'.candidates = d.candidates
      ∧ b'.member m = entry ∧ (d'.member m).probe = probe ∧ (d'.member m).over = true
      ∧ (d'.members.all DiscoveryMember.over = true → b'.work = b.work ++ [.choose])
      ∧ (d'.members.all DiscoveryMember.over = false → b'.work = b.work)
      ∧ b'.shelves = b.shelves ∧ b'.migrationWait = b.migrationWait := by
  intro b'
  have discovery := Bridge.probed_discovery (m := m) (entry := entry)
    (d := d.onMember m (fun _ => .closed probe)) running
  have own := Discovery.onMember_member length (fun _ => DiscoveryMember.closed probe)
  have only : b' = _ := Bridge.chooseWhenOver_only _
  refine ⟨d.onMember m (fun _ => .closed probe), (Bridge.chooseWhenOver_discovery _).trans discovery,
    fun k other => Discovery.onMember_other other d _, rfl, ?_, congrArg DiscoveryMember.probe own,
    (congrArg DiscoveryMember.over own).trans (DiscoveryMember.closed_over ended), fun over_ => ?_, fun still => ?_, ?_, ?_⟩
  · exact (Bridge.chooseWhenOver_member _ _).trans (Bridge.probed_member shaped)
  · exact Bridge.chooseWhenOver_over discovery over_
  · exact Bridge.chooseWhenOver_open discovery still
  · rw [only]
    rfl
  · rw [only]
    rfl

/-- A probe whose member's record reads follow. -/
theorem Bridge.probeReads (ports : b.shelves.length = 6) (small : m < 96) (capacity : Nat) :
    let b' := (b.probed m (.found capacity) (d.onMember m (fun _ => .reading capacity))).issueStep .migration (recordReads m)
    ∃ d', b'.discovery = some d' ∧ (∀ k, k ≠ m → d'.member k = d.member k) ∧ d'.candidates = d.candidates
      ∧ b'.member m = .found capacity ∧ (d'.member m).probe = .answered capacity ∧ (d'.member m).over = false
      ∧ d'.members.all DiscoveryMember.over = false ∧ b'.work = b.work
      ∧ ((b'.shelf (m / 16)).migration = (b.shelf (m / 16)).migration ++ recordReads m
            ∧ b'.migrationWait = b.migrationWait
          ∨ b'.shelves = b.shelves ∧ b'.migrationWait = b.migrationWait ++ [recordReads m]) := by
  intro b'
  have discovery := Bridge.probed_discovery (m := m) (entry := .found capacity)
    (d := d.onMember m (fun _ => .reading capacity)) running
  have own := Discovery.onMember_member length (fun _ => DiscoveryMember.reading capacity)
  have entry : (b.probed m (.found capacity) (d.onMember m (fun _ => .reading capacity))).member m = .found capacity :=
    Bridge.probed_member shaped
  have live : (b.probed m (.found capacity) (d.onMember m (fun _ => .reading capacity))).memberFailed m = false := by
    rw [Bridge.memberFailed, entry]
    rfl
  have still : ((d.onMember m (fun _ => .reading capacity)).member m).over = false := congrArg DiscoveryMember.over own
  refine ⟨d.onMember m (fun _ => .reading capacity), (Bridge.issueStep_discovery _ _ _).trans discovery,
    fun k other => Discovery.onMember_other other d _, rfl, (Bridge.issueStep_member _ _ _ _).trans entry,
    congrArg DiscoveryMember.probe own, still,
    Discovery.open_of_member ((Discovery.onMember_length d m _).symm ▸ length) still, Bridge.recordReads_work live, ?_⟩
  exact Bridge.issueStep_oneMember (cls := .migration) (step := recordReads m)
    (b := b.probed m (.found capacity) (d.onMember m (fun _ => .reading capacity))) ports (by simp [recordReads]) small live
    (by simp [recordReads, Issuer.cls])

end

/-- Settles O40: the end of a probe by what it answers, and the three ends of a record read. -/
theorem probeAndRecordReadAnswered : Obligations.ProbeAndRecordReadAnswered := by
  refine ⟨fun port tag slot status body s e outstanding fits live probe shaped small => ?_,
    fun port tag slot status body s e odd outstanding fits live kind count issuer => ?_⟩
  · intro m capacity blank good
    obtain ⟨ports, members⟩ := shaped
    have taken : exec (.driveCompletion port tag slot status body) s = .next (s.withBridge
        ((s.eventBridge.answerTaken s.mgmt.settings port e status body).settle s.mgmt.settings)) :=
      congrArg (fun b => Host.Outcome.next (s.withBridge b))
        (Bridge.driveAnswer_taken (b := s.eventBridge) status body outstanding fits live)
    obtain ⟨cap, isGood, answered⟩ : ∃ cap : Option Nat, (good ∧ cap = some capacity ∨ ¬good ∧ cap = none)
        ∧ s.eventBridge.answerTaken s.mgmt.settings port e status body
          = (s.eventBridge.freeTag port e.tag).probeEnded e.command cap := by
      by_cases yes : good
      · exact ⟨some capacity, .inl ⟨yes, rfl⟩, Bridge.answerTaken_probe_good (b := s.eventBridge) probe yes⟩
      · exact ⟨none, .inr ⟨yes, rfl⟩, Bridge.answerTaken_probe_bad (b := s.eventBridge) probe yes⟩
    have freed : (s.eventBridge.freeTag port e.tag).shelves.length = 6 := by
      rw [Bridge.freeTag, Bridge.onShelf, List.length_modify]
      exact ports
    have inside : m < (s.eventBridge.freeTag port e.tag).members.length := small.trans_eq members.symm
    rw [taken, answered]
    refine ⟨_, rfl, fun k other => Bridge.probeEnded_other other _ cap, fun issuer n executing => ?_,
      fun issuer d running length => ?_⟩
    · rw [Bridge.probeEnded_admit issuer]
      refine ⟨fun yes => ?_, fun no => ?_, rfl, fun more => CommandRecord.probeOver_more executing more, ?_⟩
      · rcases isGood with ⟨-, rfl⟩ | ⟨no, -⟩
        · exact Bridge.onMember_member inside _
        · exact absurd yes no
      · rcases isGood with ⟨yes, -⟩ | ⟨-, rfl⟩
        · exact absurd yes no
        · exact Bridge.onMember_member inside _
      · rintro rfl
        exact CommandRecord.probeOver_last executing
    · have kept : (s.eventBridge.freeTag port e.tag).discovery = some d := running
      rw [Bridge.probeEnded_discovery issuer]
      rcases isGood with ⟨yes, rfl⟩ | ⟨no, rfl⟩
      · rcases Nat.lt_or_ge capacity 1024 with few | large
        · obtain ⟨d', discovery, others, candidates, entry, found, closed, over_, still, shelves, wait⟩ :=
            Bridge.probeClosed kept length inside (entry := .found capacity) (probe := .answered capacity) (by simp)
          rw [Bridge.discoveryProbeEnded_small kept few]
          exact ⟨d', discovery, others, candidates, fun _ => ⟨entry, found⟩, fun no => absurd yes no,
            iff_of_true closed fun large => absurd large.2 (Nat.not_le.2 few), over_, still, fun _ => ⟨shelves, wait⟩,
            fun _ large => absurd large (Nat.not_le.2 few)⟩
        · obtain ⟨d', discovery, others, candidates, entry, found, open_, all, work, issued⟩ :=
            Bridge.probeReads kept length inside (ports := freed) (small := small) (capacity := capacity)
          rw [Bridge.discoveryProbeEnded_reads kept large]
          refine ⟨d', discovery, others, candidates, fun _ => ⟨entry, found⟩, fun no => absurd yes no,
            iff_of_false (by rw [open_]; decide) fun few => few ⟨yes, large⟩,
            fun over_ => absurd (over_.symm.trans all) (by decide), fun _ => work,
            fun few => absurd ⟨yes, large⟩ few, fun _ _ => ?_⟩
          rcases issued with ⟨queue, wait⟩ | ⟨shelves, wait⟩
          · exact .inl ⟨queue.trans (congrArg (· ++ recordReads m) (s.bridge.freeTag_migration port e.tag (m / 16))), wait⟩
          · exact .inr ⟨congrArg (fun ports => ports.getD (m / 16) ShelfPort.reset) shelves, wait⟩
      · obtain ⟨d', discovery, others, candidates, entry, found, closed, over_, still, shelves, wait⟩ :=
          Bridge.probeClosed kept length inside (entry := Member.reset) (probe := .absent) (by simp)
        rw [Bridge.discoveryProbeEnded_none kept]
        exact ⟨d', discovery, others, candidates, fun yes => absurd yes no, fun _ => ⟨entry, found⟩,
          iff_of_true closed fun large => no large.1, over_, still, fun _ => ⟨shelves, wait⟩, fun yes => absurd yes no⟩
  · intro ends
    have taken : exec (.driveCompletion port tag slot status body) s = .next (s.withBridge
        ((s.eventBridge.answerTaken s.mgmt.settings port e status body).settle s.mgmt.settings)) :=
      congrArg (fun b => Host.Outcome.next (s.withBridge b))
        (Bridge.driveAnswer_taken (b := s.eventBridge) status body outstanding fits live)
    rw [taken, Bridge.answerTaken_record (b := s.eventBridge) kind issuer]
    refine ⟨fun block zero body_ => ?_, fun noSlot => ?_, fun notSlot unfit => ?_⟩
    · rw [answerOf_fittingRead kind zero (by rw [body_, count]; rfl) (by rw [body_]), body_]
      rfl
    · rw [answerOf_noSlot noSlot]
      rfl
    · have media : answerOf e.command status body = .media := by
        by_cases zero : status = 0x00
        · exact answerOf_unfittingRead kind zero (count ▸ unfit.resolve_left (absurd zero))
        · exact answerOf_media ⟨zero, notSlot⟩
      rw [media]
      rfl

end Sys2Proof.Machine
end

section
/-! PROOFS. Discovery: the record reads of a member, and the choice of the record (R165 to R167). -/

namespace Sys2Proof.Machine

open Sys2Proof

/-! The order of choice (R167). -/

theorem Candidate.before_iff (x y : Candidate) :
    x.before y = true ↔
      y.generation < x.generation
        ∨ (x.generation = y.generation
          ∧ (y.holders.length < x.holders.length ∨ (x.holders.length = y.holders.length ∧ x.rank < y.rank))) := by
  unfold Candidate.before
  split
  next differ =>
    rw [bne_iff_ne] at differ
    rw [decide_eq_true_eq]
    omega
  next same =>
    rw [bne_iff_ne, not_not] at same
    split
    next differ =>
      rw [bne_iff_ne] at differ
      rw [decide_eq_true_eq]
      omega
    next equal =>
      rw [bne_iff_ne, not_not] at equal
      rw [decide_eq_true_eq]
      omega

theorem Candidate.before_trans {x y z : Candidate} (first : x.before y = true) (second : y.before z = true) :
    x.before z = true := by
  rw [Candidate.before_iff] at *
  omega

theorem bestCandidate_eq_none {l : List Candidate} : bestCandidate l = none ↔ l = [] := by
  cases l with
  | nil => exact iff_of_true rfl rfl
  | cons c cs =>
    refine iff_of_false ?_ (by simp)
    unfold bestCandidate
    split
    · simp
    · split <;> simp

/-- The best of some candidates is one of them, and none of them is chosen before it. -/
theorem bestCandidate_spec {l : List Candidate} {c : Candidate} (best : bestCandidate l = some c) :
    c ∈ l ∧ ∀ x ∈ l, ¬x.before c = true := by
  have irrefl (x : Candidate) : ¬x.before x = true := by
    rw [Candidate.before_iff]
    omega
  induction l generalizing c with
  | nil => exact absurd best (by simp [bestCandidate])
  | cons y ys ih =>
    cases rest : bestCandidate ys with
    | none =>
      obtain rfl := bestCandidate_eq_none.1 rest
      simp only [bestCandidate, Option.some.injEq] at best
      subst best
      exact ⟨by simp, fun x hx => List.mem_singleton.1 hx ▸ irrefl y⟩
    | some d =>
      obtain ⟨inside, none⟩ := ih rest
      simp only [bestCandidate, rest] at best
      split at best
      next sooner =>
        obtain rfl := Option.some.inj best
        refine ⟨by simp, List.forall_mem_cons.2 ⟨irrefl y, fun x hx earlier => ?_⟩⟩
        exact none x hx (Candidate.before_trans earlier sooner)
      next later =>
        obtain rfl := Option.some.inj best
        exact ⟨List.mem_cons_of_mem y inside, List.forall_mem_cons.2 ⟨later, none⟩⟩

theorem Discovery.mem_standing (d : Discovery) (x : Candidate) :
    x ∈ d.candidates.filter d.stands ↔ x ∈ d.candidates ∧ (d.dissenting x).length ≤ 1 := by
  rw [List.mem_filter, Discovery.stands, decide_eq_true_eq]

/-! The holders and the rank of a candidate (R166, R167). -/

theorem mem_distinctMembers (copies : List (Nat × Bool)) (m : Nat) :
    m ∈ distinctMembers copies ↔ ∃ odd, (m, odd) ∈ copies := by
  induction copies with
  | nil => simp [distinctMembers]
  | cons x xs ih =>
    obtain ⟨k, o⟩ := x
    unfold distinctMembers
    split
    next known =>
      rw [List.contains_iff_mem] at known
      rw [ih]
      constructor
      · exact fun ⟨odd, h⟩ => ⟨odd, List.mem_cons_of_mem _ h⟩
      · rintro ⟨odd, h⟩
        rcases List.mem_cons.1 h with same | h
        · obtain ⟨rfl, -⟩ := Prod.mk.inj same
          exact ih.1 known
        · exact ⟨odd, h⟩
    next fresh =>
      rw [List.mem_cons, ih]
      constructor
      · rintro (rfl | ⟨odd, h⟩)
        · exact ⟨o, by simp⟩
        · exact ⟨odd, List.mem_cons_of_mem _ h⟩
      · rintro ⟨odd, h⟩
        rcases List.mem_cons.1 h with same | h
        · exact .inl (Prod.mk.inj same).1
        · exact .inr ⟨odd, h⟩

theorem distinctMembers_nodup (copies : List (Nat × Bool)) : (distinctMembers copies).Nodup := by
  induction copies with
  | nil => exact List.nodup_nil
  | cons x xs ih =>
    unfold distinctMembers
    split
    · exact ih
    next fresh => exact List.nodup_cons.2 ⟨by simpa using fresh, ih⟩

theorem smallest_le {l : List Nat} {x : Nat} (h : x ∈ l) : smallest l ≤ x := by
  induction l with
  | nil => exact absurd h (by simp)
  | cons c cs ih =>
    cases cs with
    | nil => exact (List.mem_singleton.1 h).ge
    | cons c' cs' =>
      rcases List.mem_cons.1 h with rfl | h
      · exact min_le_left _ _
      · exact (min_le_right _ _).trans (ih h)

theorem smallest_mem {l : List Nat} (some_ : l ≠ []) : smallest l ∈ l := by
  induction l with
  | nil => exact absurd rfl some_
  | cons c cs ih =>
    cases cs with
    | nil => exact List.mem_singleton_self c
    | cons c' cs' =>
      rcases min_choice c (smallest (c' :: cs')) with first | later
      · exact List.mem_cons.2 (.inl first)
      · have rest : smallest (c :: c' :: cs') = smallest (c' :: cs') := later
        rw [rest]
        exact List.mem_cons_of_mem c (ih (by simp))

/-! The columns that dissent (R166). -/

theorem Record.columns_eq (r : Record) : r.columns = (r.target.getD r.current).members := by
  unfold Record.columns
  cases r.target <;> rfl

theorem Record.valid_of_tested {tests : Bool} {x r : Record}
    (h : (if (tests && x.valid) = true then some x else none) = some r) : r.valid = true := by
  split at h
  next passes =>
    obtain rfl := Option.some.inj h
    exact (Bool.and_eq_true_iff.1 passes).2
  next => exact absurd h (by simp)

theorem Record.valid_of_read {block : Block} {r : Record} (read : readRecord block = some r) : r.valid = true := by
  unfold readRecord at read
  split at read
  next =>
    split at read
    next => exact absurd read (by simp)
    next => exact Record.valid_of_tested read
  next => exact absurd read (by simp)

theorem nodup_of_noDuplicate {l : List Nat} (h : noDuplicate l = true) : l.Nodup := by
  induction l with
  | nil => exact List.nodup_nil
  | cons m ms ih =>
    obtain ⟨fresh, rest⟩ := Bool.and_eq_true_iff.1 h
    exact List.nodup_cons.2 ⟨by simpa using fresh, ih rest⟩

theorem Descriptor.members_nodup {d : Descriptor} (h : d.wellFormed = true) : d.members.Nodup := by
  obtain ⟨rest, -⟩ := Bool.and_eq_true_iff.1 h
  exact nodup_of_noDuplicate (Bool.and_eq_true_iff.1 rest).2

theorem Record.columns_nodup {r : Record} (valid : r.valid = true) : r.columns.Nodup := by
  have wellFormed : (r.target.getD r.current).wellFormed = true := by
    cases target : r.target <;> simp [Record.valid, target] at valid ⊢ <;> tauto
  rw [Record.columns_eq]
  exact Descriptor.members_nodup wellFormed

theorem Discovery.dissenting_eq {d : Discovery} {c : Candidate} {r : Record} (read : readRecord c.block = some r) :
    d.dissenting c = r.columns.filter (fun m => d.answered m && !c.holders.contains m) := by
  rw [Discovery.dissenting, read]
  rfl

/-! The end of a record read (R165). -/

theorem enterCandidate_has (block : Block) (copy : Nat × Bool) (l : List Candidate) :
    ∃ c ∈ enterCandidate block copy l, c.block = block ∧ copy ∈ c.copies := by
  induction l with
  | nil => exact ⟨_, List.mem_singleton_self _, rfl, List.mem_singleton_self _⟩
  | cons x xs ih =>
    unfold enterCandidate
    split
    next same => exact ⟨_, List.mem_cons_self, beq_iff_eq.1 same, by simp⟩
    next =>
      obtain ⟨c, hc, h⟩ := ih
      exact ⟨c, List.mem_cons_of_mem x hc, h⟩

theorem enterCandidate_keeps (block : Block) (copy : Nat × Bool) (l : List Candidate) :
    ∀ c ∈ l, ∃ c' ∈ enterCandidate block copy l, c'.block = c.block ∧ ∀ x ∈ c.copies, x ∈ c'.copies := by
  induction l with
  | nil => simp
  | cons y ys ih =>
    intro c hc
    unfold enterCandidate
    split
    next =>
      rcases List.mem_cons.1 hc with rfl | hc
      · exact ⟨_, List.mem_cons_self, rfl, fun x hx => List.mem_append_left _ hx⟩
      · exact ⟨c, List.mem_cons_of_mem _ hc, rfl, fun x hx => hx⟩
    next =>
      rcases List.mem_cons.1 hc with rfl | hc
      · exact ⟨c, List.mem_cons_self, rfl, fun x hx => hx⟩
      · obtain ⟨c', hc', h⟩ := ih c hc
        exact ⟨c', List.mem_cons_of_mem _ hc', h⟩

theorem higherGeneration_max (x y : RecordRead) :
    (higherGeneration x.generation? y.generation?).map BitVec.toNat =
      ([x, y].filterMap (fun z => z.generation?.map BitVec.toNat)).max? := by
  cases first : x.generation? with
  | none => cases second : y.generation? <;> simp [first, second, higherGeneration]
  | some g =>
    cases second : y.generation? with
    | none => simp [first, second, higherGeneration]
    | some h =>
      simp only [higherGeneration, first, second, List.filterMap_cons, Option.map_some, List.filterMap_nil]
      split
      next below => simp [below.le]
      next above => simp [not_lt.1 above]

theorem DiscoveryMember.setRead_read (x : DiscoveryMember) (odd : Bool) (r : RecordRead) :
    (x.setRead odd r).read odd = r := by
  cases odd <;> rfl

theorem DiscoveryMember.setRead_probe (x : DiscoveryMember) (odd : Bool) (r : RecordRead) :
    (x.setRead odd r).probe = x.probe := by
  cases odd <;> rfl

/-- What follows a record read: the best generation once both have ended, and the choice once all have. -/
theorem Bridge.afterRecordRead_leaves {b : Bridge} {d : Discovery} {m : Nat} (running : b.discovery = some d)
    (inside : m < b.members.length) :
    (b.afterRecordRead m).discovery = some d
      ∧ (∀ k, k ≠ m → (b.afterRecordRead m).member k = b.member k)
      ∧ (d.members.all DiscoveryMember.over = true → (b.afterRecordRead m).work = b.work ++ [.choose])
      ∧ (d.members.all DiscoveryMember.over = false → (b.afterRecordRead m).work = b.work)
      ∧ ((d.member m).over = true → d.answered m = true → ((b.afterRecordRead m).member m).best =
          higherGeneration (d.member m).block0.generation? (d.member m).block8.generation?)
      ∧ ((b.afterRecordRead m).member m).media = (b.member m).media
      ∧ ((b.afterRecordRead m).member m).state = (b.member m).state := by
  obtain ⟨x, after, discovery, work, others, best, media, state⟩ : ∃ x : Bridge, b.afterRecordRead m = x.chooseWhenOver
      ∧ x.discovery = some d ∧ x.work = b.work ∧ (∀ k, k ≠ m → x.member k = b.member k)
      ∧ ((d.member m).over = true → d.answered m = true → (x.member m).best =
          higherGeneration (d.member m).block0.generation? (d.member m).block8.generation?)
      ∧ (x.member m).media = (b.member m).media ∧ (x.member m).state = (b.member m).state := by
    unfold Bridge.afterRecordRead
    rw [running]
    dsimp only
    split
    next ended =>
      have set := Bridge.onMember_member inside (fun e => { e with
        best := higherGeneration (d.member m).block0.generation? (d.member m).block8.generation? })
      exact ⟨_, rfl, running, rfl, fun k other => Bridge.onMember_other other b _, fun _ _ => congrArg Member.best set,
        (congrArg Member.media set :), (congrArg Member.state set :)⟩
    next open_ =>
      exact ⟨b, rfl, running, rfl, fun _ _ => rfl, fun ended answered =>
        absurd (by simpa [Discovery.answered] using ⟨ended, answered⟩) open_, rfl, rfl⟩
  rw [after]
  simp only [Bridge.chooseWhenOver_member, Bridge.chooseWhenOver_discovery]
  refine ⟨discovery, others, fun ended => ?_, fun still => ?_, best, media, state⟩
  · rw [Bridge.chooseWhenOver_over discovery ended, work]
  · rw [Bridge.chooseWhenOver_open discovery still, work]

/-- Discovery with a record read of a member set, and the candidates as they then are. -/
def Discovery.withRead (d : Discovery) (m : Nat) (odd : Bool) (r : RecordRead) (candidates : List Candidate) : Discovery :=
  { d.onMember m (fun x => x.setRead odd r) with candidates := candidates }

section
variable {b : Bridge} {d : Discovery} {m : Nat} {odd : Bool} (running : b.discovery = some d)
  (answered : d.answered m = true)
include running answered

theorem Bridge.recordReadEnded_valid {block : Block} (valid : (readRecord block).isSome = true) :
    b.recordReadEnded m odd (.block block) =
      ({ b with
          discovery := some (d.withRead m odd (.record block) (enterCandidate block (m, odd) d.candidates)) } : Bridge).afterRecordRead
        m := by
  simp only [Bridge.recordReadEnded, running, answered, valid, Discovery.withRead]
  rfl

theorem Bridge.recordReadEnded_other {block : Block} (other : readRecord block = none) :
    b.recordReadEnded m odd (.block block) =
      ({ b with discovery := some (d.withRead m odd (.record block) d.candidates) } : Bridge).afterRecordRead m := by
  simp only [Bridge.recordReadEnded, running, answered, other, Discovery.withRead]
  rfl

theorem Bridge.recordReadEnded_media :
    b.recordReadEnded m odd .media =
      ({ b with discovery := some (d.withRead m odd .unreadable d.candidates) } : Bridge).afterRecordRead m := by
  simp only [Bridge.recordReadEnded, running, answered, Discovery.withRead, Bridge.onDiscovery]
  rfl

end

theorem Discovery.withRead_member {d : Discovery} {m : Nat} (length : m < d.members.length) (odd : Bool) (r : RecordRead)
    (candidates : List Candidate) : (d.withRead m odd r candidates).member m = (d.member m).setRead odd r :=
  Discovery.onMember_member length _

/-- What a record read leaves that ends with a block or with DMEDIA. -/
theorem Bridge.withRead_leaves {b : Bridge} {d : Discovery} {m : Nat} (answered : d.answered m = true)
    (length : m < d.members.length) (inside : m < b.members.length) (odd : Bool) (r : RecordRead)
    (candidates : List Candidate) :
    let d' := d.withRead m odd r candidates
    let b' := ({ b with discovery := some d' } : Bridge).afterRecordRead m
    b'.discovery = some d' ∧ (∀ k, k ≠ m → b'.member k = b.member k ∧ d'.member k = d.member k)
      ∧ (d'.members.all DiscoveryMember.over = true → b'.work = b.work ++ [.choose])
      ∧ (d'.members.all DiscoveryMember.over = false → b'.work = b.work)
      ∧ ((d'.member m).over = true → (b'.member m).best.map BitVec.toNat =
          ([(d'.member m).block0, (d'.member m).block8].filterMap (fun x => x.generation?.map BitVec.toNat)).max?)
      ∧ (b'.member m).media = (b.member m).media ∧ (b'.member m).state = (b.member m).state := by
  intro d' b'
  have still : d'.answered m = true := by
    rw [Discovery.answered, Discovery.withRead_member length, DiscoveryMember.setRead_probe]
    exact answered
  obtain ⟨discovery, others, over_, open_, best, media, state⟩ :=
    Bridge.afterRecordRead_leaves (b := { b with discovery := some d' }) (d := d') rfl inside
  refine ⟨discovery, fun k other => ⟨others k other, Discovery.onMember_other other d _⟩, over_, open_, fun ended => ?_,
    media, state⟩
  exact (congrArg (Option.map BitVec.toNat) (best ended still)).trans (higherGeneration_max _ _)

/-- Settles O41: the order of choice, the words it is put in, and the ends of a record read. -/
theorem recordsReadAndChosen : Obligations.RecordsReadAndChosen := by
  refine ⟨fun d => ⟨fun c chosen => ?_, fun none x hx => ?_⟩, fun d c r read => ⟨?_, fun m => ?_, ?_⟩,
    fun c => ⟨mem_distinctMembers c.copies, distinctMembers_nodup c.copies, fun some_ => ?_, fun x hx => ?_⟩,
    fun b d m odd running answered length inside => ?_⟩
  · obtain ⟨inside, none⟩ := bestCandidate_spec chosen
    obtain ⟨candidate, stands⟩ := (d.mem_standing c).1 inside
    refine ⟨candidate, stands, fun x hx standing => ?_⟩
    have later := none x ((d.mem_standing x).2 ⟨hx, standing⟩)
    rw [Candidate.before_iff] at later
    omega
  · have empty := bestCandidate_eq_none.1 none
    by_contra few
    exact List.eq_nil_iff_forall_not_mem.1 empty x ((d.mem_standing x).2 ⟨hx, by omega⟩)
  · rw [Candidate.generation, read]
    rfl
  · rw [Discovery.dissenting_eq read, List.mem_filter, Record.columns_eq, Bool.and_eq_true, Bool.not_eq_true',
      List.contains_eq_mem, decide_eq_false_iff_not, Candidate.holders, mem_distinctMembers, not_exists]
  · rw [Discovery.dissenting_eq read]
    exact (Record.columns_nodup (Record.valid_of_read read)).filter _
  · obtain ⟨x, hx, rank⟩ := List.mem_map.1 (smallest_mem (l := c.copies.map copyRank) (by simpa using some_))
    exact ⟨x, hx, rank.symm⟩
  · exact smallest_le (List.mem_map_of_mem hx)
  · intro after
    have reads := Bridge.withRead_leaves (b := b) answered length inside odd
    have lost := Bridge.probed_discovery (m := m) (entry := Member.reset) (d := d.withoutReader m odd) running
    have gone : after .gone = (b.probed m Member.reset (d.withoutReader m odd)).chooseWhenOver :=
      Bridge.recordReadEnded_gone odd running length answered
    have media : after .media = _ := Bridge.recordReadEnded_media running answered
    refine ⟨fun outcome => ?_, fun block valid => ?_, fun block other => ?_, ?_, ?_⟩
    · rcases outcome with block | _ | _
      · cases read : readRecord block with
        | some record =>
          have ended : after (.block block) = _ := Bridge.recordReadEnded_valid running answered (by rw [read]; rfl)
          obtain ⟨discovery, others, over_, open_, best, -, -⟩ :=
            reads (.record block) (enterCandidate block (m, odd) d.candidates)
          rw [ended]
          exact ⟨_, discovery, others, over_, open_, fun _ => best⟩
        | none =>
          have ended : after (.block block) = _ := Bridge.recordReadEnded_other running answered read
          obtain ⟨discovery, others, over_, open_, best, -, -⟩ := reads (.record block) d.candidates
          rw [ended]
          exact ⟨_, discovery, others, over_, open_, fun _ => best⟩
      · obtain ⟨discovery, others, over_, open_, best, -, -⟩ := reads .unreadable d.candidates
        rw [media]
        exact ⟨_, discovery, others, over_, open_, fun _ => best⟩
      · rw [gone]
        refine ⟨_, (Bridge.chooseWhenOver_discovery _).trans lost, fun k other => ⟨?_, Discovery.onMember_other other d _⟩,
          Bridge.chooseWhenOver_over lost, Bridge.chooseWhenOver_open lost, fun present => absurd rfl present⟩
        exact (Bridge.chooseWhenOver_member _ _).trans (Bridge.probed_other other)
    · obtain ⟨discovery, -⟩ := reads (.record block) (enterCandidate block (m, odd) d.candidates)
      have ended : after (.block block) = _ := Bridge.recordReadEnded_valid running answered valid
      rw [ended]
      refine ⟨_, discovery, ?_, enterCandidate_has block (m, odd) d.candidates,
        enterCandidate_keeps block (m, odd) d.candidates⟩
      rw [Discovery.withRead_member length, DiscoveryMember.setRead_read]
    · obtain ⟨discovery, -⟩ := reads (.record block) d.candidates
      have ended : after (.block block) = _ := Bridge.recordReadEnded_other running answered other
      rw [ended]
      exact ⟨_, discovery, rfl⟩
    · obtain ⟨discovery, -, -, -, -, count, state⟩ := reads .unreadable d.candidates
      rw [media]
      refine ⟨_, discovery, ?_, rfl, count, state⟩
      rw [Discovery.withRead_member length, DiscoveryMember.setRead_read]
    · rw [gone]
      refine ⟨_, (Bridge.chooseWhenOver_discovery _).trans lost,
        congrArg DiscoveryMember.probe (Discovery.onMember_member length _), ?_, dropCopies_none m d.candidates⟩
      exact (Bridge.chooseWhenOver_member _ _).trans (Bridge.probed_member inside)

end Sys2Proof.Machine
end

section
/-! PROOFS. Discovery: the roles that the chosen record gives, and what the rest of the choice event keeps (R168 to R170). -/

namespace Sys2Proof.Machine

open Sys2Proof

/-! What a valid record is (R97, R199). -/

theorem recordState_cases {code : Nat} {v : VolumeState} (h : recordState code = some v) :
    v = .initializing ∨ v = .stable ∨ v = .expanding := by
  unfold recordState at h
  split at h <;> simp_all

theorem Record.volume_of_tested {test : Bool} {x r : Record} (h : (if test = true then some x else none) = some r) :
    x.volume = r.volume := by
  split at h
  next => rw [Option.some.inj h]
  next => exact absurd h (by simp)

/-- The volume states that a record can have. -/
theorem Record.volume_of_read {block : Block} {r : Record} (read : readRecord block = some r) :
    r.volume = .initializing ∨ r.volume = .stable ∨ r.volume = .expanding := by
  unfold readRecord at read
  split at read
  next =>
    split at read
    next => exact absurd read (by simp)
    next volume state =>
      exact Record.volume_of_tested read ▸ recordState_cases state
  next => exact absurd read (by simp)

section
variable {r : Record} (valid : r.valid = true)
include valid

theorem Record.current_wellFormed : r.current.wellFormed = true := by
  simp only [Record.valid, Bool.and_eq_true] at valid
  tauto

theorem Record.target_wellFormed {t : Descriptor} (target : r.target = some t) :
    t.wellFormed = true ∧ r.volume = .expanding := by
  simp only [Record.valid, target, Bool.and_eq_true, beq_iff_eq] at valid
  tauto

theorem Record.target_none (target : r.target = none) : r.volume ≠ .expanding := by
  simp only [Record.valid, target, Bool.and_eq_true, bne_iff_ne] at valid
  tauto

theorem Record.stage_some {row column : Nat} (stage : r.stage = some (row, column)) :
    r.volume = .expanding ∧ row = r.mark ∧ row < r.current.rows := by
  simp only [Record.valid, stage, Bool.and_eq_true, beq_iff_eq, decide_eq_true_eq] at valid
  tauto

end

theorem Descriptor.member_lt {d : Descriptor} (h : d.wellFormed = true) : ∀ m ∈ d.members, m < 96 := by
  simp only [Descriptor.wellFormed, Bool.and_eq_true, List.all_eq_true, decide_eq_true_eq] at h
  tauto

theorem Descriptor.member_getD {d : Descriptor} (h : d.wellFormed = true) (column : Nat) : d.members.getD column 0 < 96 := by
  rcases Nat.lt_or_ge column d.members.length with inside | outside
  · rw [List.getD_eq_getElem _ _ inside]
    exact Descriptor.member_lt h _ (List.getElem_mem _)
  · rw [List.getD_eq_default _ _ outside]
    decide

/-! The roles of the members (R168). -/

theorem columnOf_some {members : List Nat} (nodup : members.Nodup) {i m : Nat} (h : members[i]? = some m) :
    columnOf members m = some i := by
  obtain ⟨inside, rfl⟩ := List.getElem?_eq_some_iff.1 h
  rw [columnOf, if_pos (List.contains_iff_mem.2 (List.getElem_mem _)), nodup.idxOf_getElem]

theorem columnOf_none {members : List Nat} {m : Nat} (h : m ∉ members) : columnOf members m = none := by
  simp [columnOf, h]

theorem columnOf_isSome (members : List Nat) (m : Nat) : (columnOf members m).isSome = true ↔ m ∈ members := by
  simp [columnOf]

/-- A member is a column of a record's layouts. -/
def Record.isColumn (r : Record) (m : Nat) : Prop := m ∈ r.current.members ∨ ∃ t, r.target = some t ∧ m ∈ t.members

section
variable {d : Discovery} {r : Record} {holders : List Nat} {m : Nat} {before : Member}

theorem Discovery.role_state (d : Discovery) (r : Record) (holders : List Nat) (m : Nat) (before : Member) :
    (r.isColumn m → d.answered m = true →
        m ∈ holders ∧ 1024 + r.current.rows * r.current.chunk ≤ before.capacity →
        (d.role r holders m before).state = .online)
      ∧ (r.isColumn m → d.answered m = true →
        ¬(m ∈ holders ∧ 1024 + r.current.rows * r.current.chunk ≤ before.capacity) →
        (d.role r holders m before).state = .stale)
      ∧ (r.isColumn m → d.answered m = false → (d.role r holders m before).state = .failed)
      ∧ (¬r.isColumn m → d.answered m = true → (d.role r holders m before).state = .present)
      ∧ (¬r.isColumn m → d.answered m = false → (d.role r holders m before).state = .empty) := by
  have column : ((columnOf r.current.members m).isSome || (r.target.bind (fun t => columnOf t.members m)).isSome) = true
      ↔ r.isColumn m := by
    rw [Bool.or_eq_true, columnOf_isSome]
    refine or_congr_right ?_
    cases r.target <;> simp [columnOf_isSome]
  have large : (holders.contains m
      && Decidable.decide (Config.firstDataBlock + r.current.rows * r.current.chunk ≤ before.capacity)) = true
      ↔ m ∈ holders ∧ 1024 + r.current.rows * r.current.chunk ≤ before.capacity := by
    rw [Bool.and_eq_true, List.contains_iff_mem, decide_eq_true_eq]
    exact Iff.rfl
  unfold Discovery.role
  refine ⟨fun col answered holds => ?_, fun col answered lacks => ?_, fun col absent => ?_, fun other answered => ?_,
    fun other absent => ?_⟩
  · exact (if_pos (column.2 col)).trans ((if_neg (by simp [answered])).trans (if_pos (large.2 holds)))
  · exact (if_pos (column.2 col)).trans ((if_neg (by simp [answered])).trans (if_neg (mt large.1 lacks)))
  · exact (if_pos (column.2 col)).trans (if_pos (by simp [absent]))
  · exact (if_neg (mt column.1 other)).trans (if_pos answered)
  · exact (if_neg (mt column.1 other)).trans (if_neg (by simp [absent]))

/-- Every column is ONLINE, STALE or FAILED. -/
theorem Discovery.role_column (column : r.isColumn m) (live : (d.role r holders m before).state.isFailed = false) :
    (d.role r holders m before).state = .online := by
  obtain ⟨online, stale, failed, -, -⟩ := d.role_state r holders m before
  cases answered : d.answered m with
  | false =>
    rw [failed column answered] at live
    exact absurd live (by decide)
  | true =>
    by_cases holds : m ∈ holders ∧ 1024 + r.current.rows * r.current.chunk ≤ before.capacity
    · exact online column answered holds
    · rw [stale column answered holds] at live
      exact absurd live (by decide)

end

theorem Discovery.roles_member {d : Discovery} {r : Record} {holders : List Nat} {members : List Member} {m : Nat}
    (inside : m < members.length) :
    (d.roles r holders members).getD m Member.reset = d.role r holders m (members.getD m Member.reset) := by
  simp [Discovery.roles, inside]

/-! What the rest of the choice event keeps. -/

/-- A bridge that has kept what the choice of a record sets: the members and the health, the descriptors, the marks and the
durable record, and alert cause MEMBER. -/
structure Bridge.adoptedKept (b b' : Bridge) : Prop where
  members : b'.members = b.members
  healthCurrent : b'.parity.healthCurrent = b.parity.healthCurrent
  healthTarget : b'.parity.healthTarget = b.parity.healthTarget
  current : b'.engine.current = b.engine.current
  target : b'.engine.target = b.engine.target
  doneMark : b'.engine.doneMark = b.engine.doneMark
  checkMark : b'.engine.checkMark = b.engine.checkMark
  durable : b'.engine.durable = b.engine.durable
  causes : b.causes.getLsbD 1 = true → b'.causes.getLsbD 1 = true

theorem Bridge.adoptedKept.refl (b : Bridge) : b.adoptedKept b := ⟨rfl, rfl, rfl, rfl, rfl, rfl, rfl, rfl, id⟩

theorem Bridge.adoptedKept.trans {b c d : Bridge} (first : b.adoptedKept c) (second : c.adoptedKept d) : b.adoptedKept d where
  members := second.members.trans first.members
  healthCurrent := second.healthCurrent.trans first.healthCurrent
  healthTarget := second.healthTarget.trans first.healthTarget
  current := second.current.trans first.current
  target := second.target.trans first.target
  doneMark := second.doneMark.trans first.doneMark
  checkMark := second.checkMark.trans first.checkMark
  durable := second.durable.trans first.durable
  causes := second.causes ∘ first.causes

section
variable {b x : Bridge} (kept : b.adoptedKept x)
include kept

theorem Bridge.failEngine_adoptedKept : b.adoptedKept x.failEngine := by
  by_cases failed : x.engine.state = .failed
  · rwa [Bridge.failEngine_failed failed]
  · have engine := Bridge.failEngine_engine failed
    obtain ⟨-, causes, -, -⟩ := Bridge.failEngine_rest failed
    refine kept.trans ⟨Bridge.failEngine_members x, x.failEngine_health .current, x.failEngine_health .target, ?_, ?_, ?_,
      ?_, ?_, fun set => by rw [causes]; simp [set]⟩
    all_goals
      rw [engine]
      rfl

theorem Bridge.endDiscovery_adoptedKept (volume : VolumeState) : b.adoptedKept (x.endDiscovery volume) :=
  kept.trans ⟨rfl, rfl, rfl, rfl, rfl, rfl, rfl, rfl, id⟩

theorem Bridge.issueStep_adoptedKept (cls : CommandClass) (step : List DriveCommand) :
    b.adoptedKept (x.issueStep cls step) := by
  rw [Bridge.issueStep_only]
  exact kept.trans ⟨rfl, rfl, rfl, rfl, rfl, rfl, rfl, rfl, id⟩

theorem Bridge.startCheckpoint_adoptedKept (kind : CheckpointKind) (stage : Option (Nat × Nat)) :
    b.adoptedKept (x.startCheckpoint kind stage) := by
  unfold Bridge.startCheckpoint
  dsimp only
  split
  · refine Bridge.failEngine_adoptedKept ?_
    exact kept.trans ⟨rfl, rfl, rfl, rfl, rfl, rfl, rfl, rfl, id⟩
  · refine Bridge.issueStep_adoptedKept ?_ _ _
    exact kept.trans ⟨rfl, rfl, rfl, rfl, rfl, rfl, rfl, rfl, id⟩

theorem Bridge.allocateRow_adoptedKept (i : SlotId) (row : Nat) : b.adoptedKept (x.allocateRow i row) := by
  cases phase : x.engine.rowPhase row with
  | copy =>
    rw [Bridge.allocateRow_copy phase]
    cases i <;> exact kept.trans ⟨rfl, rfl, rfl, rfl, rfl, rfl, rfl, rfl, id⟩
  | fill =>
    rw [Bridge.allocateRow_fill phase]
    cases i <;> exact kept.trans ⟨rfl, rfl, rfl, rfl, rfl, rfl, rfl, rfl, id⟩

theorem Bridge.loseStage_adoptedKept (row : Nat) : b.adoptedKept (x.loseStage row) := by
  unfold Bridge.loseStage
  refine Bridge.endDiscovery_adoptedKept (Bridge.failEngine_adoptedKept ?_) _
  exact kept.trans ⟨rfl, rfl, rfl, rfl, rfl, rfl, rfl, rfl, id⟩

theorem Bridge.beginStageRead_adoptedKept (row column : Nat) : b.adoptedKept (x.beginStageRead row column) := by
  unfold Bridge.beginStageRead
  dsimp only
  split
  · refine Bridge.issueStep_adoptedKept ?_ _ _
    exact kept.trans ⟨rfl, rfl, rfl, rfl, rfl, rfl, rfl, rfl, id⟩
  · refine Bridge.loseStage_adoptedKept ?_ _
    exact kept.trans ⟨rfl, rfl, rfl, rfl, rfl, rfl, rfl, rfl, id⟩

theorem Bridge.resumeFrom_adoptedKept (r : Record) : b.adoptedKept (x.resumeFrom r) := by
  have ended (volume : VolumeState) := Bridge.endDiscovery_adoptedKept kept volume
  unfold Bridge.resumeFrom
  split
  · exact Bridge.beginStageRead_adoptedKept kept _ _
  · dsimp only
    split
    · refine Bridge.startCheckpoint_adoptedKept ?_ _ _
      exact (ended .expanding).trans ⟨rfl, rfl, rfl, rfl, rfl, rfl, rfl, rfl, id⟩
    · exact Bridge.allocateRow_adoptedKept (ended _) _ _
  · dsimp only
    split
    · exact Bridge.startCheckpoint_adoptedKept (ended _) _ _
    · exact ended _
  all_goals exact ended _

theorem Bridge.testNeeded_adoptedKept (r : Record) : b.adoptedKept (x.testNeeded r) := by
  unfold Bridge.testNeeded
  dsimp only
  split
  · exact Bridge.endDiscovery_adoptedKept (Bridge.failEngine_adoptedKept kept) _
  · split
    · refine Bridge.resumeFrom_adoptedKept ?_ r
      exact kept.trans ⟨rfl, rfl, rfl, rfl, rfl, rfl, rfl, rfl, id⟩
    · exact Bridge.resumeFrom_adoptedKept kept r

end

end Sys2Proof.Machine
end

section
/-! PROOFS. Discovery: the choice event (R167 to R175). -/

namespace Sys2Proof.Machine

open Sys2Proof

/-! The bridge once the chosen record is adopted (R168, R169). -/

/-- The bridge with the chosen record's roles and values, before the needed layouts are tested. -/
def Bridge.adopted (b : Bridge) (d : Discovery) (c : Candidate) (r : Record) : Bridge :=
  let members := d.roles r c.holders b.members
  let b := { b with members := members, discovery := some { d with chosen := some c } }
  let b := (b.onEngine (fun e => e.fromRecord r)).refreshHealth
  if members.any (fun m => m.state.isFailed) then b.raise causeMember else b

theorem Bridge.adopted_only (b : Bridge) (d : Discovery) (c : Candidate) (r : Record) :
    b.adopted d c r =
      { b with
        members := d.roles r c.holders b.members, discovery := some { d with chosen := some c }
        engine := b.engine.fromRecord r
        parity := { b.parity with
          healthCurrent := layoutHealth (d.roles r c.holders b.members) (some r.current)
          healthTarget := layoutHealth (d.roles r c.holders b.members) r.target }
        causes := (b.adopted d c r).causes } := by
  unfold Bridge.adopted
  dsimp only
  split <;> rfl

theorem Bridge.adopted_causes {b : Bridge} {d : Discovery} {c : Candidate} {r : Record} {m : Nat}
    (inside : m < b.members.length) (failed : ((b.adopted d c r).member m).state.isFailed = true) :
    (b.adopted d c r).causes.getLsbD 1 = true := by
  have members : (b.adopted d c r).members = d.roles r c.holders b.members := by rw [Bridge.adopted_only]
  have length : m < (d.roles r c.holders b.members).length := by rwa [Discovery.roles, List.length_mapIdx]
  have any : (d.roles r c.holders b.members).any (fun m => m.state.isFailed) = true := by
    rw [Bridge.member, members, List.getD_eq_getElem _ _ length] at failed
    exact List.any_eq_true.2 ⟨_, List.getElem_mem length, failed⟩
  unfold Bridge.adopted
  dsimp only
  rw [if_pos any]
  simp [causeMember]

section
variable {b : Bridge} {d : Discovery} (running : b.discovery = some d)
include running

theorem Bridge.choose_none (none : d.choice = none) : b.choose = b.endDiscovery .unformed := by
  unfold Bridge.choose
  rw [running]
  dsimp only
  rw [none]

theorem Bridge.choose_adopts {c : Candidate} {r : Record} (chosen : d.choice = some c)
    (read : readRecord c.block = some r) : b.choose = (b.adopted d c r).testNeeded r := by
  unfold Bridge.choose
  rw [running]
  dsimp only
  rw [chosen]
  dsimp only
  rw [read]
  rfl

end

theorem Engine.fromRecord_running (e : Engine) (r : Record) : (e.fromRecord r).state ≠ .failed := by
  unfold Engine.fromRecord
  cases r.volume <;> simp

/-! The test of the needed layouts (R170). -/

/-- The bridge with the engine's hold request set. -/
def Bridge.withHold (b : Bridge) (hold : Option HoldCause) : Bridge := b.onEngine (fun e => { e with hold := hold })

theorem Engine.neededIn_congr {e e' : Engine} (current : e'.current = e.current) (target : e'.target = e.target)
    (mark : e'.doneMark = e.doneMark) (v : VolumeState) : e'.neededIn v = e.neededIn v := by
  simp only [Engine.neededIn, Engine.lastCopyRow, current, target, mark]

section
variable {b : Bridge} {r : Record}

theorem Bridge.testNeeded_broken (broken : ∃ l ∈ b.engine.neededIn r.volume, b.health l = .broken) :
    b.testNeeded r = b.failEngine.endDiscovery r.volume := by
  obtain ⟨l, needed, health⟩ := broken
  exact if_pos (List.any_eq_true.2 ⟨l, needed, (b.broken_iff l).2 health⟩)

theorem Bridge.testNeeded_resumes (whole : ¬∃ l ∈ b.engine.neededIn r.volume, b.health l = .broken) :
    b.testNeeded r =
      (b.withHold (if ∃ l ∈ b.engine.neededIn r.volume, b.health l = .degraded then some .member
        else b.engine.hold)).resumeFrom r := by
  have sound : ¬(b.engine.neededIn r.volume).any b.broken = true := fun any => by
    obtain ⟨l, needed, broken⟩ := List.any_eq_true.1 any
    exact whole ⟨l, needed, (b.broken_iff l).1 broken⟩
  have degraded_iff : (b.engine.neededIn r.volume).any (fun l => b.health l == .degraded) = true
      ↔ ∃ l ∈ b.engine.neededIn r.volume, b.health l = .degraded := by
    simp
  by_cases degraded : ∃ l ∈ b.engine.neededIn r.volume, b.health l = .degraded
  · rw [if_pos degraded]
    exact (if_neg sound).trans (if_pos (degraded_iff.2 degraded))
  · rw [if_neg degraded]
    exact (if_neg sound).trans (if_neg (mt degraded_iff.1 degraded))

end

/-! Where the engine resumes (R171 to R175). -/

section
variable {b : Bridge} {r : Record}

theorem Bridge.resumeFrom_stable (volume : r.volume = .stable) : b.resumeFrom r = b.endDiscovery .stable := by
  simp only [Bridge.resumeFrom, volume]

theorem Bridge.resumeFrom_filling (volume : r.volume = .initializing) (below : r.mark ≠ r.current.rows) :
    b.resumeFrom r = b.endDiscovery .initializing := by
  simp only [Bridge.resumeFrom, volume, beq_iff_eq, if_neg below]

theorem Bridge.resumeFrom_filled (volume : r.volume = .initializing) (all : r.mark = r.current.rows) :
    b.resumeFrom r = (b.endDiscovery .initializing).startCheckpoint .final none := by
  simp only [Bridge.resumeFrom, volume, beq_iff_eq, if_pos all]

theorem Bridge.resumeFrom_row (volume : r.volume = .expanding) (stage : r.stage = none)
    (below : r.mark ≠ r.current.rows) :
    b.resumeFrom r = (b.endDiscovery .expanding).allocateRow .a r.mark := by
  simp only [Bridge.resumeFrom, volume, stage, beq_iff_eq, if_neg below]

theorem Bridge.resumeFrom_final (volume : r.volume = .expanding) (stage : r.stage = none)
    (all : r.mark = r.current.rows) :
    b.resumeFrom r =
      ((b.endDiscovery .expanding).onEngine (fun e => { e with state := .fill })).startCheckpoint .final none := by
  simp only [Bridge.resumeFrom, volume, stage, beq_iff_eq, if_pos all]

theorem Bridge.resumeFrom_stage {row column : Nat} (volume : r.volume = .expanding) (stage : r.stage = some (row, column)) :
    b.resumeFrom r = b.beginStageRead row column := by
  simp only [Bridge.resumeFrom, volume, stage]

end

/-! A layout that is not BROKEN has members enough for a checkpoint (R99, R120). -/

theorem onlineMembers_enough {b : Bridge} {l : Layout} {desc : Descriptor} (descriptor : b.engine.descriptor l = some desc)
    (whole : layoutHealth b.members (some desc) ≠ .broken)
    (columns : ∀ m ∈ desc.members, (b.member m).state.isFailed = false → (b.member m).state = .online) :
    b.layoutColumns l - 1 ≤ (b.onlineMembers l).length := by
  have few : failedColumns b.members desc ≤ 1 := by
    by_contra many
    exact whole (layoutHealth_broken (by omega))
  have online : b.onlineMembers l = desc.members.filter (fun m => !(b.member m).state.isFailed) := by
    rw [Bridge.onlineMembers, descriptor]
    refine List.filter_congr fun m hm => ?_
    cases failed : (b.member m).state.isFailed with
    | true => cases state : (b.member m).state <;> simp_all [Bridge.memberOnline, MemberState.isFailed]
    | false => exact (b.memberOnline_iff m).2 (columns m hm failed)
  have all := List.length_eq_length_filter_add (l := desc.members) (fun m => (b.member m).state.isFailed)
  have count : b.layoutColumns l = desc.members.length := by
    rw [Bridge.layoutColumns, descriptor]
    rfl
  have failed : (desc.members.filter (fun m => (b.member m).state.isFailed)).length = failedColumns b.members desc := rfl
  rw [online, count]
  omega

/-- A checkpoint leaves discovery as it is. -/
theorem Bridge.startCheckpoint_discovery (b : Bridge) (kind : CheckpointKind) (stage : Option (Nat × Nat)) :
    (b.startCheckpoint kind stage).discovery = b.discovery := by
  unfold Bridge.startCheckpoint
  dsimp only
  split
  · rw [Bridge.failEngine_discovery]
    rfl
  · rw [Bridge.issueStep_discovery]
    rfl

/-! The choice event, with the chosen record. -/

/-- The record's values that the rest of the choice event keeps, and the roles of the members. -/
theorem Bridge.adopted_kept {b b' : Bridge} {d : Discovery} {c : Candidate} {r : Record}
    (kept : (b.adopted d c r).adoptedKept b') :
    b'.members = d.roles r c.holders b.members
      ∧ b'.health .current = layoutHealth b'.members (some r.current) ∧ b'.health .target = layoutHealth b'.members r.target
      ∧ b'.engine.current = some r.current ∧ b'.engine.target = r.target ∧ b'.engine.doneMark = r.mark
      ∧ b'.engine.checkMark = r.mark
      ∧ b'.engine.durable = some { generation := r.generation, mark := r.mark, stage := r.stage } := by
  have only := Bridge.adopted_only b d c r
  have members : b'.members = d.roles r c.holders b.members := by rw [kept.members, only]
  refine ⟨members, ?_, ?_, ?_, ?_, ?_, ?_, ?_⟩
  · rw [members, Bridge.health, kept.healthCurrent, only]
  · rw [members, Bridge.health, kept.healthTarget, only]
  · rw [kept.current, only]
    rfl
  · rw [kept.target, only]
    rfl
  · rw [kept.doneMark, only]
    rfl
  · rw [kept.checkMark, only]
    rfl
  · rw [kept.durable, only]
    rfl

theorem Bridge.adopted_member {b b' : Bridge} {d : Discovery} {c : Candidate} {r : Record} {m : Nat}
    (kept : (b.adopted d c r).adoptedKept b') (inside : m < b.members.length) :
    b'.member m = d.role r c.holders m (b.member m) := by
  obtain ⟨members, -⟩ := Bridge.adopted_kept kept
  rw [Bridge.member, members]
  exact Discovery.roles_member inside

theorem Engine.fromRecord_state (e : Engine) (r : Record) :
    (r.volume = .initializing → (e.fromRecord r).state = .fill)
      ∧ (r.volume = .expanding → (e.fromRecord r).state = .recover)
      ∧ (r.volume = .stable → (e.fromRecord r).state = .idle) := by
  refine ⟨fun volume => ?_, fun volume => ?_, fun volume => ?_⟩
  all_goals simp only [Engine.fromRecord, volume]

/-- What the allocation of a row leaves. -/
theorem Bridge.allocateRow_leaves (b : Bridge) (i : SlotId) (row : Nat) :
    ∃ s : Slot, (b.allocateRow i row).engine = b.engine.setSlot i s ∧ s.row = some row
      ∧ (b.allocateRow i row).discovery = b.discovery
      ∧ ∀ kc, b.engine.lastCopyRow = some kc → (row ≤ kc → s.state = .gather) ∧ (kc < row → s.state = .full) := by
  cases phase : b.engine.rowPhase row with
  | copy =>
    rw [Bridge.allocateRow_copy phase]
    refine ⟨_, rfl, rfl, rfl, fun kc last => ⟨fun _ => rfl, fun above => ?_⟩⟩
    simp only [Engine.rowPhase, last, if_neg (Nat.not_le.2 above)] at phase
    exact absurd phase (by decide)
  | fill =>
    rw [Bridge.allocateRow_fill phase]
    refine ⟨_, rfl, rfl, rfl, fun kc last => ⟨fun below => ?_, fun _ => rfl⟩⟩
    simp only [Engine.rowPhase, last, if_pos below] at phase
    exact absurd phase (by decide)

/-- An expansion's target layout is needed (R72). -/
theorem Engine.target_needed (e : Engine) : Layout.target ∈ e.neededIn .expanding := by
  unfold Engine.neededIn
  cases e.lastCopyRow with
  | none => simp
  | some kc =>
    dsimp only
    split <;> simp

/-- The loss of the stage copy (R173). -/
theorem Bridge.loseStage_leaves {b : Bridge} (running : b.engine.state ≠ .failed) (row : Nat) :
    (b.loseStage row).engine.state = .failed ∧ (b.loseStage row).engine.stageLoss = some row
      ∧ (b.loseStage row).engine.volume = .expanding ∧ (b.loseStage row).engine.slotA = b.engine.slotA
      ∧ (b.loseStage row).discovery = none ∧ (b.loseStage row).causes = b.causes ||| 0x10 := by
  have marked : (b.onEngine (fun e => { e with stageLoss := some row })).engine.state ≠ .failed := running
  obtain ⟨-, causes, -, -⟩ := Bridge.failEngine_rest marked
  have engine : (b.loseStage row).engine =
      { b.engine.failed with stageLoss := some row, volume := .expanding } := by
    rw [show (b.loseStage row).engine = { (b.onEngine (fun e => { e with stageLoss := some row })).failEngine.engine with
      volume := .expanding } from rfl, Bridge.failEngine_engine marked]
    rfl
  exact ⟨by rw [engine]; rfl, by rw [engine], by rw [engine], by rw [engine]; rfl, rfl, causes⟩

/-! What each outcome of the choice event leaves, from a bridge `x` that has adopted the record. -/

section
variable {x : Bridge} {e : Engine} {r : Record}

theorem choice_broken (engine : x.engine = e.fromRecord r) :
    let b' := x.failEngine.endDiscovery r.volume
    b'.engine.state = .failed ∧ b'.engine.volume = r.volume ∧ b'.discovery = none ∧ b'.causes.getLsbD 4 = true
      ∧ b'.engine.slotA = e.slotA ∧ b'.engine.generation = r.generation ∧ b'.engine.stageLoss = e.stageLoss := by
  intro b'
  have running : x.engine.state ≠ .failed := engine ▸ e.fromRecord_running r
  obtain ⟨-, causes, -, -⟩ := Bridge.failEngine_rest running
  have failed : b'.engine = { (e.fromRecord r).failed with volume := r.volume } := by
    rw [← engine, ← Bridge.failEngine_engine running]
    rfl
  rw [failed]
  refine ⟨rfl, rfl, rfl, ?_, rfl, rfl, rfl⟩
  have bit : (x.causes ||| 0x10).getLsbD 4 = true := by simp
  exact (congrArg (fun w : BitVec 5 => w.getLsbD 4) causes).trans bit

variable {hold : Option HoldCause} (engine : x.engine = { e.fromRecord r with hold := hold })
include engine

theorem choice_ended (volume : VolumeState) :
    let b' := x.endDiscovery volume
    b'.engine.state = (e.fromRecord r).state ∧ b'.engine.volume = volume ∧ b'.discovery = none ∧ b'.engine.hold = hold
      ∧ b'.engine.generation = r.generation ∧ b'.engine.slotA = e.slotA := by
  intro b'
  have ended : b'.engine = { e.fromRecord r with hold := hold, volume := volume } := by
    rw [show b'.engine = { x.engine with volume := volume } from rfl, engine]
  rw [ended]
  exact ⟨rfl, rfl, rfl, rfl, rfl, rfl⟩

theorem choice_row (expanding : r.volume = .expanding) :
    let b' := (x.endDiscovery .expanding).allocateRow .a r.mark
    b'.engine.state = .recover ∧ b'.engine.volume = .expanding ∧ b'.discovery = none ∧ b'.engine.hold = hold
      ∧ b'.engine.generation = r.generation ∧ b'.engine.slotA.row = some r.mark ∧ b'.engine.slotB = e.slotB
      ∧ ∀ kc, b'.engine.lastCopyRow = some kc →
          (r.mark ≤ kc → b'.engine.slotA.state = .gather) ∧ (kc < r.mark → b'.engine.slotA.state = .full) := by
  intro b'
  have ended : (x.endDiscovery .expanding).engine = { e.fromRecord r with hold := hold, volume := .expanding } := by
    rw [show (x.endDiscovery .expanding).engine = { x.engine with volume := .expanding } from rfl, engine]
  obtain ⟨slot, allocated, row, discovery, phase⟩ := (x.endDiscovery .expanding).allocateRow_leaves .a r.mark
  have allocated : b'.engine = _ := allocated
  rw [ended] at allocated phase
  rw [allocated]
  exact ⟨(e.fromRecord_state r).2.1 expanding, rfl, discovery, rfl, rfl, row, rfl, phase⟩

/-- The bridge whose slot A takes the staged row (R172). -/
def Bridge.staged (x : Bridge) (row : Nat) : Bridge := x.onEngine (fun e => { e with slotA := e.stageSlot row })

theorem choice_stageRead {d : Discovery} {t : Descriptor} (expanding : r.volume = .expanding) (target : r.target = some t)
    (wellFormed : t.wellFormed = true) (ports : x.shelves.length = 6) (running : x.discovery = some d) {row column : Nat}
    (online : (x.member (t.members.getD column 0)).state = .online) :
    let b' := x.beginStageRead row column
    let m := t.members.getD column 0
    let n := t.members.length - 1
    let reads : List DriveCommand := (List.range n).map (fun i =>
      { kind := .dread, member := m, block := 16 + i * r.current.chunk, count := r.current.chunk, payload := []
        issuer := .stageRead i })
    b'.engine.state = .recover ∧ b'.engine.volume = e.volume ∧ b'.engine.hold = hold ∧ b'.engine.slotA.state = .gather
      ∧ b'.engine.slotA.row = some row ∧ b'.engine.slotA.gathers = n ∧ b'.engine.slotA.present = List.replicate n false
      ∧ b'.discovery.map Discovery.stageReads = some (some n)
      ∧ ((b'.shelf (m / 16)).migration = (x.shelf (m / 16)).migration ++ reads ∧ b'.migrationWait = x.migrationWait
          ∨ b'.shelves = x.shelves ∧ b'.migrationWait = x.migrationWait ++ [reads]) := by
  intro b' m n reads
  have staged : (x.staged row).engine = { e.fromRecord r with hold := hold, slotA := x.engine.stageSlot row } := by
    rw [show (x.staged row).engine = { x.engine with slotA := x.engine.stageSlot row } from rfl, engine]
  have stagedTarget : (x.staged row).engine.target = some t := by rw [staged]; exact target
  have member : (x.staged row).columnMember .target column = m := Bridge.columnMember_target stagedTarget column
  have live : (x.staged row).memberOnline m = true := (x.memberOnline_iff m).2 online
  have positions {e' : Engine} (target : e'.target = some t) : e'.writtenPositions = n :=
    Engine.writtenPositions_target target
  have slotTarget : x.engine.target = some t := by rw [engine]; exact target
  have steps : (x.staged row).engine.stageReads m = reads := by
    have chunk : (x.staged row).engine.chunk = r.current.chunk := Engine.chunk_eq (by rw [staged]; rfl)
    rw [Engine.stageReads, positions stagedTarget, chunk]
    rfl
  have issued : b' =
      ((x.staged row).onDiscovery (fun d => { d with stageReads := some reads.length })).issueStep .migration reads := by
    have read : b' = if (x.staged row).memberOnline ((x.staged row).columnMember .target column) then
        ((x.staged row).onDiscovery (fun d => { d with
          stageReads := some ((x.staged row).engine.stageReads ((x.staged row).columnMember .target column)).length })).issueStep
            .migration ((x.staged row).engine.stageReads ((x.staged row).columnMember .target column))
        else (x.staged row).loseStage row := rfl
    rw [read, member, if_pos live, steps]
  have length : reads.length = n := by simp [reads]
  have columns : 3 ≤ t.members.length := by
    simp only [Descriptor.wellFormed, Bool.and_eq_true, decide_eq_true_eq] at wellFormed
    tauto
  have engine' : b'.engine = { e.fromRecord r with hold := hold, slotA := x.engine.stageSlot row } := by
    rw [issued, Bridge.issueStep_engine]
    exact staged
  refine ⟨?_, ?_, ?_, ?_, ?_, ?_, ?_, ?_, ?_⟩
  · rw [engine']
    exact (e.fromRecord_state r).2.1 expanding
  · rw [engine']
    rfl
  · rw [engine']
  · rw [engine']
    rfl
  · rw [engine']
    rfl
  · rw [engine']
    exact positions slotTarget
  · rw [engine']
    exact congrArg (List.replicate · false) (positions slotTarget)
  · rw [issued, Bridge.issueStep_discovery, ← length]
    exact congrArg (fun d => (d.map fun d => { d with stageReads := some reads.length }).map Discovery.stageReads) running
  · rw [issued]
    have some_ : reads ≠ [] := List.ne_nil_of_length_pos (by omega)
    refine Bridge.issueStep_oneMember (b := (x.staged row).onDiscovery _) (cls := .migration) ports some_
      (Descriptor.member_getD wellFormed column) (Bridge.live_of_online live) fun c hc => ?_
    obtain ⟨i, -, rfl⟩ := List.mem_map.1 hc
    exact ⟨rfl, rfl⟩

theorem choice_stageLost {t : Descriptor} (target : r.target = some t) {row column : Nat}
    (lost : (x.member (t.members.getD column 0)).state ≠ .online) :
    let b' := x.beginStageRead row column
    b'.engine.state = .failed ∧ b'.engine.stageLoss = some row ∧ b'.engine.volume = .expanding ∧ b'.discovery = none
      ∧ b'.causes.getLsbD 4 = true ∧ b'.engine.slotA.state = .gather ∧ b'.engine.slotA.row = some row := by
  intro b'
  have stagedTarget : (x.staged row).engine.target = some t := by
    rw [show (x.staged row).engine.target = x.engine.target from rfl, engine]
    exact target
  have gone : ¬(x.staged row).memberOnline ((x.staged row).columnMember .target column) = true := by
    rw [Bridge.columnMember_target stagedTarget column]
    exact fun online => lost ((x.memberOnline_iff _).1 online)
  have loss : b' = (x.staged row).loseStage row := if_neg gone
  have running : (x.staged row).engine.state ≠ .failed := by
    rw [show (x.staged row).engine.state = x.engine.state from rfl, engine]
    exact e.fromRecord_running r
  obtain ⟨state, stageLoss, volume, slotA, discovery, causes⟩ := Bridge.loseStage_leaves running row
  rw [loss]
  refine ⟨state, stageLoss, volume, discovery, ?_, by rw [slotA]; rfl, by rw [slotA]; rfl⟩
  rw [causes]
  simp

/-- The engine with the final checkpoint due, discovery over. -/
theorem choice_filling (filling : r.volume = .initializing) :
    (x.endDiscovery .initializing).engine = { e.fromRecord r with hold := hold, volume := r.volume, state := .fill } := by
  rw [show (x.endDiscovery .initializing).engine = { x.engine with volume := .initializing } from rfl, engine]
  simp only [Engine.fromRecord, filling]

theorem choice_copied (expanding : r.volume = .expanding) :
    ((x.endDiscovery .expanding).onEngine (fun e => { e with state := .fill })).engine =
      { e.fromRecord r with hold := hold, volume := r.volume, state := .fill } := by
  rw [show ((x.endDiscovery .expanding).onEngine (fun e => { e with state := .fill })).engine =
    { x.engine with volume := .expanding, state := .fill } from rfl, engine]
  simp only [Engine.fromRecord, expanding]

omit engine in
/-- The final checkpoint is started when the layout it is written to is not BROKEN, its columns ONLINE, STALE or FAILED. -/
theorem choice_final {y z : Bridge} {desc : Descriptor} (members : y.members = z.members)
    (final : y.engine = { e.fromRecord r with hold := hold, volume := r.volume, state := .fill }) (over_ : y.discovery = none)
    (descriptor : y.engine.descriptor y.engine.writtenLayout = some desc)
    (whole : layoutHealth z.members (some desc) ≠ .broken)
    (columns : ∀ m ∈ desc.members, (z.member m).state.isFailed = false → (z.member m).state = .online) :
    let b' := y.startCheckpoint .final none
    b'.discovery = none ∧ b'.engine.volume = r.volume
      ∧ (r.generation ≠ BitVec.allOnes 64 → b'.engine.generation = r.generation + 1)
      ∧ b'.engine.state = .fill ∧ b'.engine.checkpoint.map Checkpoint.kind = some .final
      ∧ (∃ x : Bridge, b' = x.startCheckpoint .final none ∧ x.members = b'.members
          ∧ x.engine.generation = r.generation ∧ x.engine.current = some r.current ∧ x.engine.target = r.target)
      ∧ b'.engine.slotA = e.slotA := by
  intro b'
  have same (m : Nat) : z.member m = y.member m := by rw [Bridge.member, Bridge.member, members]
  rw [← members] at whole
  simp only [same] at columns
  obtain ⟨c, kind, -, -, started, -⟩ := Bridge.startCheckpoint_starts (kind := .final) (stage := none)
    (onlineMembers_enough descriptor whole columns)
  have started : b'.engine = _ := started
  have generation : y.engine.generation = r.generation := by rw [final]; rfl
  refine ⟨(Bridge.startCheckpoint_discovery y .final none).trans over_, ?_, fun below => ?_, ?_, ?_,
    ⟨y, rfl, (Bridge.startCheckpoint_members y .final none).symm, generation, ?_, ?_⟩, ?_⟩
  · rw [started, final]
  · rw [started, generation, nextGeneration_below below]
  · rw [started, final]
  · rw [started, Option.map_some, kind]
  · rw [final]
    rfl
  · rw [final]
    rfl
  · rw [started, final]
    rfl

end

/-- Settles O42: the roles, what every outcome of the needed layouts' test keeps, and each way to resume. -/
theorem discoveryAdoptsRecord : Obligations.DiscoveryAdoptsRecord := by
  refine ⟨fun b d running none => Bridge.choose_none running none, fun b d c r running chosen read shaped => ?_⟩
  intro b' e' needed broken hold columns
  have valid := Record.valid_of_read read
  obtain ⟨ports, length⟩ := shaped
  have after : b' = (b.adopted d c r).testNeeded r := Bridge.choose_adopts running chosen read
  have kept : (b.adopted d c r).adoptedKept b' := after ▸ Bridge.testNeeded_adoptedKept (.refl _) r
  obtain ⟨members, healthCurrent, healthTarget, current, target, doneMark, checkMark, durable⟩ := Bridge.adopted_kept kept
  have member {m : Nat} (small : m < 96) : b'.member m = d.role r c.holders m (b.member m) :=
    Bridge.adopted_member kept (small.trans_eq length.symm)
  have only := Bridge.adopted_only b d c r
  have adopted_needed : (b.adopted d c r).engine.neededIn r.volume = needed :=
    (Engine.neededIn_congr kept.current kept.target kept.doneMark r.volume).symm
  have adopted_health (l : Layout) : (b.adopted d c r).health l = b'.health l := by
    cases l
    · exact kept.healthCurrent.symm
    · exact kept.healthTarget.symm
  have adopted_hold : (b.adopted d c r).engine.hold = b.engine.hold := by
    rw [only]
    rfl
  have engine : (b.adopted d c r).engine = b.engine.fromRecord r := by rw [only]
  have held : ((b.adopted d c r).withHold hold).engine = { b.engine.fromRecord r with hold := hold } := by
    rw [← engine]
    rfl
  have broken_iff : (∃ l ∈ (b.adopted d c r).engine.neededIn r.volume, (b.adopted d c r).health l = .broken) ↔ broken := by
    simp only [adopted_needed, adopted_health]
    exact Iff.rfl
  have resumes (whole : ¬broken) : b' = ((b.adopted d c r).withHold hold).resumeFrom r := by
    rw [after, Bridge.testNeeded_resumes (mt broken_iff.1 whole)]
    simp only [adopted_needed, adopted_health, adopted_hold]
    rfl
  refine ⟨fun m small => ?_, healthCurrent, healthTarget, fun m small failed => ?_, current, target, doneMark, checkMark,
    durable, fun isBroken => ?_, fun volume => ?_, fun whole volume below => ?_, fun whole volume stage below => ?_,
    fun whole volume all => ?_, fun t row column whole some_ stage => ?_⟩
  · intro old new large
    obtain ⟨online, stale, failed, present, empty⟩ := d.role_state r c.holders m old
    have role : new = d.role r c.holders m old := member small
    rw [role]
    refine ⟨rfl, rfl, fun answered => if_pos answered, fun absent => if_neg (by simp [absent]),
      fun column answered holds large => online column answered ⟨holds, large⟩, stale, failed, present, empty,
      fun i at_ => columnOf_some (Descriptor.members_nodup (Record.current_wellFormed valid)) at_, columnOf_none,
      fun t i some_ at_ => ?_, fun none => ?_⟩
    · obtain ⟨wellFormed, -⟩ := Record.target_wellFormed valid some_
      exact (congrArg (·.bind fun t => columnOf t.members m) some_).trans
        (columnOf_some (Descriptor.members_nodup wellFormed) at_)
    · cases some_ : r.target with
      | none => exact congrArg (·.bind fun t => columnOf t.members m) some_
      | some t => exact (congrArg (·.bind fun t => columnOf t.members m) some_).trans (columnOf_none (none t some_))
  · refine kept.causes (Bridge.adopted_causes (m := m) (small.trans_eq length.symm) ?_)
    have same : (b.adopted d c r).member m = b'.member m := by rw [Bridge.member, ← kept.members]; rfl
    rw [same]
    exact (b'.memberFailed_iff m).2 failed
  · have ended : b' = (b.adopted d c r).failEngine.endDiscovery r.volume :=
      after.trans (Bridge.testNeeded_broken (broken_iff.2 isBroken))
    have outcome := choice_broken engine
    rwa [← ended] at outcome
  · have none : ¬broken := fun ⟨l, need, _⟩ => by
      rw [show needed = [] by simp only [needed, volume]; rfl] at need
      exact absurd need (by simp)
    have ended : b' = _ := (resumes none).trans (Bridge.resumeFrom_stable volume)
    obtain ⟨state, stable, discovery, -, generation, slot⟩ := choice_ended held .stable
    rw [← ended] at state stable discovery generation slot
    exact ⟨state.trans ((b.engine.fromRecord_state r).2.2 volume), stable, discovery, generation, slot⟩
  · have ended : b' = _ := (resumes whole).trans (Bridge.resumeFrom_filling volume below.ne)
    obtain ⟨state, filling, discovery, hold_, generation, -⟩ := choice_ended held .initializing
    rw [← ended] at state filling discovery hold_ generation
    exact ⟨state.trans ((b.engine.fromRecord_state r).1 volume), filling, discovery, hold_, generation⟩
  · have ended : b' = _ := (resumes whole).trans (Bridge.resumeFrom_row volume stage below.ne)
    have outcome := choice_row held volume
    rwa [← ended] at outcome
  · have sound {l : Layout} {desc : Descriptor} (need : l ∈ needed)
        (health : b'.health l = layoutHealth b'.members (some desc)) : layoutHealth b'.members (some desc) ≠ .broken :=
      fun lost => whole ⟨l, need, health.trans lost⟩
    have online {desc : Descriptor} (wellFormed : desc.wellFormed = true) (inside : ∀ m ∈ desc.members, r.isColumn m) :
        ∀ m ∈ desc.members, (b'.member m).state.isFailed = false → (b'.member m).state = .online := fun m hm live => by
      rw [member (Descriptor.member_lt wellFormed m hm)] at live ⊢
      exact Discovery.role_column (inside m hm) live
    rcases Record.volume_of_read read with filling | stable | expanding
    · have none : r.target = none := Option.eq_none_iff_forall_ne_some.2 fun t some_ => by
        obtain ⟨-, expanding⟩ := Record.target_wellFormed valid some_
        exact absurd (filling.symm.trans expanding) (by decide)
      have ended : b' = _ := (resumes whole).trans (Bridge.resumeFrom_filled filling all)
      have need : Layout.current ∈ needed := by
        simp only [needed, filling]
        exact List.mem_singleton.2 rfl
      have final := choice_filling held filling
      have outcome := choice_final (hold := hold) (desc := r.current)
        (y := ((b.adopted d c r).withHold hold).endDiscovery .initializing) kept.members.symm final rfl
        (by rw [final]; simp [Engine.writtenLayout, Engine.fromRecord, none, Engine.descriptor])
        (sound need healthCurrent) (online (Record.current_wellFormed valid) fun m hm => .inl hm)
      rwa [← ended] at outcome
    · exact absurd stable volume
    · obtain ⟨t, some_⟩ : ∃ t, r.target = some t :=
        Option.ne_none_iff_exists'.1 fun none => Record.target_none valid none expanding
      have stage : r.stage = none := Option.eq_none_iff_forall_ne_some.2 fun (row, column) stage => by
        obtain ⟨-, row_, below⟩ := Record.stage_some valid stage
        omega
      have ended : b' = _ := (resumes whole).trans (Bridge.resumeFrom_final expanding stage all)
      have need : Layout.target ∈ needed := by
        simp only [needed, expanding]
        exact Engine.target_needed e'
      obtain ⟨wellFormed, -⟩ := Record.target_wellFormed valid some_
      have final := choice_copied held expanding
      have outcome := choice_final (hold := hold) (desc := t)
        (y := (((b.adopted d c r).withHold hold).endDiscovery .expanding).onEngine (fun e => { e with state := .fill }))
        kept.members.symm final rfl
        (by rw [final]; simp [Engine.writtenLayout, Engine.fromRecord, some_, Engine.descriptor])
        (sound need (by rw [healthTarget, some_])) (online wellFormed fun m hm => .inr ⟨t, some_, hm⟩)
      rwa [← ended] at outcome
  · obtain ⟨expanding, -, -⟩ := Record.stage_some valid stage
    obtain ⟨wellFormed, -⟩ := Record.target_wellFormed valid some_
    have ended : b' = _ := (resumes whole).trans (Bridge.resumeFrom_stage expanding stage)
    have roles (x : Nat) : ((b.adopted d c r).withHold hold).member x = b'.member x := by
      rw [Bridge.member, Bridge.member, kept.members]
      rfl
    refine ⟨fun online => ?_, fun lost => ?_⟩
    · have outcome := choice_stageRead held expanding some_ wellFormed (row := row) (column := column)
        (d := { d with chosen := some c }) (by rw [Bridge.withHold, only]; exact ports) (by rw [Bridge.withHold, only]; rfl)
        (by rw [roles]; exact online)
      rw [← ended] at outcome
      have shelf (i : Nat) : ((b.adopted d c r).withHold hold).shelf i = b.shelf i := by rw [Bridge.withHold, only]; rfl
      have wait : ((b.adopted d c r).withHold hold).migrationWait = b.migrationWait := by rw [Bridge.withHold, only]; rfl
      have shelves : ((b.adopted d c r).withHold hold).shelves = b.shelves := by rw [Bridge.withHold, only]; rfl
      obtain ⟨state, volume, hold, slot, row, gathers, present, reading, queued⟩ := outcome
      rw [shelf, wait, shelves] at queued
      exact ⟨state, volume, hold, slot, row, gathers, present, reading, queued⟩
    · have outcome := choice_stageLost held some_ (row := row) (column := column) (by rw [roles]; exact lost)
      rwa [← ended] at outcome

end Sys2Proof.Machine
end

section
/-! PROOFS. Discovery: the end of a read of a stage copy (R172, R173). -/

namespace Sys2Proof.Machine

open Sys2Proof

/-! How the end of a stage read falls into cases. -/

/-- The bridge with a stage chunk placed, and its read no longer outstanding (R172). -/
def Bridge.stagePlaced (b : Bridge) (position : Nat) (blocks : List Block) : Bridge :=
  (b.onSlot .a (fun s => (s.placed position blocks).full)).onDiscovery
    (fun d => { d with stageReads := d.stageReads.map (fun n => n - 1) })

section
variable {b : Bridge}

theorem Bridge.stageReadEnded_gone (gone : b.discovery = none) (p : Nat) (ending : Ending) :
    b.stageReadEnded p ending = b := if_pos (by simp [gone])

variable (running : b.discovery ≠ none) (p : Nat)
include running

theorem Bridge.stageReadEnded_lost {ending : Ending} (bad : ending = .media ∨ ending = .failed) :
    b.stageReadEnded p ending = b.loseStage b.engine.doneMark := by
  have open_ : ¬b.discovery.isNone = true := by simpa using running
  rcases bad with rfl | rfl
  · exact if_neg open_
  · exact if_neg open_

theorem Bridge.stageReadEnded_good (blocks : List Block) :
    b.stageReadEnded p (.good blocks) =
      if (b.stagePlaced p blocks).engine.slotA.state == .full then (b.stagePlaced p blocks).stageCopyRead
      else b.stagePlaced p blocks :=
  if_neg (by simpa using running)

end

/-- The chunk that completes the slot: the slot is in GATHER with no further read outstanding and every position present. -/
theorem Slot.placed_full (a : Slot) (p : Nat) (blocks : List Block) :
    let last : Prop := a.state = .gather ∧ a.gathers ≤ 1 ∧ ∀ x ∈ a.present.set p true, x = true
    (last → (a.placed p blocks).full = { a.placed p blocks with state := .full })
      ∧ (¬last → (a.placed p blocks).full = a.placed p blocks) := by
  intro last
  obtain ⟨complete, incomplete⟩ := (a.placed p blocks).full_cases
  refine ⟨fun ⟨gather, reads, present⟩ => complete ⟨gather, Nat.sub_eq_zero_of_le reads, present⟩,
    fun notLast => incomplete fun ⟨gather, reads, present⟩ => notLast ⟨gather, Nat.le_of_sub_eq_zero reads, present⟩⟩

/-! What the complete stage copy's write-out leaves (R172). -/

section
variable {b : Bridge}

/-- The bridge with slot A in WRITING and its parity built. -/
def Bridge.writingA (b : Bridge) : Bridge := b.onSlot .a (fun s => s.startWriting b.engine.chunk)

theorem Bridge.stageCopyRead_open (clear : b.router.inCurrent = []) :
    b.stageCopyRead = (b.writingA.issueWriteOut .a b.engine.doneMark).endDiscovery .expanding := by
  have open_ : ∀ e ∈ b.writingA.router.inCurrent, e.row ≠ b.engine.doneMark := by
    rw [show b.writingA.router.inCurrent = [] from clear]
    simp
  have gate := Bridge.askGate_open (i := .a) open_
  exact congrArg (fun x : Bridge => x.endDiscovery .expanding) gate

theorem Bridge.stageCopyRead_issued (clear : b.router.inCurrent = []) (whole : b.health b.engine.writtenLayout ≠ .broken) :
    b.stageCopyRead.engine =
        { b.engine with
          slotA := { b.engine.slotA.startWriting b.engine.chunk with
            writes := (b.writingA.writeOutStep .a b.engine.doneMark).length }
          volume := .expanding }
      ∧ b.stageCopyRead.discovery = none := by
  have sound : b.writingA.health b.writingA.engine.writtenLayout ≠ .broken := whole
  rw [Bridge.stageCopyRead_open clear, Bridge.issueWriteOut_whole sound]
  refine ⟨?_, rfl⟩
  rw [Bridge.endDiscovery]
  dsimp only [Bridge.onEngine]
  rw [Bridge.issueStep_engine]
  rfl

theorem Bridge.stageCopyRead_broken (clear : b.router.inCurrent = []) (broken : b.health b.engine.writtenLayout = .broken)
    (live : b.engine.state ≠ .failed) :
    b.stageCopyRead.engine.state = .failed ∧ b.stageCopyRead.engine.volume = .expanding
      ∧ b.stageCopyRead.discovery = none := by
  have lost : b.writingA.health b.writingA.engine.writtenLayout = .broken := broken
  have running : b.writingA.engine.state ≠ .failed := live
  rw [Bridge.stageCopyRead_open clear, Bridge.issueWriteOut_broken lost]
  exact ⟨congrArg Engine.state (Bridge.failEngine_engine running), rfl, rfl⟩

theorem Bridge.writeOutStep_length (i : SlotId) (k : Nat) :
    (b.writeOutStep i k).length =
      ((List.range (b.layoutColumns b.engine.writtenLayout)).filter (fun c =>
        !b.memberFailed (b.columnMember b.engine.writtenLayout c))).length := List.length_map _

end

/-- Settles O43: the ending decides, and for a good chunk whether it completes slot A. -/
theorem stageReadEnds : Obligations.StageReadEnds := by
  intro b p
  refine ⟨fun gone ending => Bridge.stageReadEnded_gone gone p ending, fun running live ending bad => ?_,
    fun running blocks => ?_⟩
  · intro b'
    have loss : b' = b.loseStage b.engine.doneMark := Bridge.stageReadEnded_lost running p bad
    obtain ⟨state, stageLoss, volume, slotA, discovery, causes⟩ := Bridge.loseStage_leaves live b.engine.doneMark
    rw [loss]
    exact ⟨state, stageLoss, volume, slotA, discovery, causes⟩
  · intro b' a data last layout live
    obtain ⟨complete, incomplete⟩ := a.placed_full p blocks
    have placed : b' = _ := Bridge.stageReadEnded_good running p blocks
    have slot : (b.stagePlaced p blocks).engine.slotA = (a.placed p blocks).full := rfl
    have whole (isLast : last) : b' = (b.stagePlaced p blocks).stageCopyRead :=
      placed.trans (if_pos (by rw [slot, complete isLast]; rfl))
    refine ⟨fun gather notLast => ?_, fun isLast clear sound => ?_, fun isLast clear broken live => ?_⟩
    · have slotA : (b.stagePlaced p blocks).engine.slotA = a.placed p blocks := slot.trans (incomplete notLast)
      have kept : b' = b.stagePlaced p blocks := placed.trans (if_neg (by
        rw [slotA, show (a.placed p blocks).state = .gather from gather]
        decide))
      rw [kept]
      exact ⟨slotA, rfl, mt Option.map_eq_none_iff.1 running, rfl⟩
    · obtain ⟨engine, discovery⟩ := Bridge.stageCopyRead_issued (b := b.stagePlaced p blocks) clear sound
      rw [whole isLast]
      refine ⟨by rw [engine]; rfl, ?_, ?_, ?_, by rw [engine], by rw [engine]; rfl, discovery⟩
      · rw [engine, slot, complete isLast]
        rfl
      · rw [engine, slot, complete isLast]
        rfl
      · rw [engine, Bridge.writeOutStep_length]
        rfl
    · have failed := Bridge.stageCopyRead_broken (b := b.stagePlaced p blocks) clear broken live
      rw [whole isLast]
      exact failed

end Sys2Proof.Machine
end

section
/-! PROOFS. The management line: its address and control bytes, the stop of a write frame, and the fetch of a reply
(R179, R182). -/

namespace Sys2Proof.Machine

open Sys2Proof

/-! What the line's events do. -/

/-- The state that an event of the management line begins from: the frames of the event before are no longer shown. -/
def State.lineState (s : State) : State := { s with bridge := { s.bridge with sent := [] } }

theorem State.lineEvent_eq (f : State → State) (s : State) : s.lineEvent f = (f s.lineState).driveAlert := rfl

theorem State.onMgmt_idle {s : State} (idle : s.mgmt.line = .idle) : s.onMgmt (fun m => { m with line := .idle }) = s := by
  rw [State.onMgmt, ← idle]

theorem Management.hasRoom_iff (m : Management) : m.hasRoom = true ↔ m.waiting.length < 2 := decide_eq_true_iff

theorem controlWrite_eq {c : Byte} {reads : Bool} (direction : c.getLsbD 7 = reads) : controlWrite c = !reads := by
  rw [controlWrite, direction]

section
variable {s : State} (idle : s.mgmt.line = .idle)
include idle

theorem exec_lineAddressByte (a : Byte) :
    exec (.lineAddressByte a) s = .next
      ((if a == 0x58 && s.mgmt.hasRoom then (s.lineState.onMgmt (fun m => { m with line := .filling })).ackBytes true 1
        else if a == 0x59 && !s.mgmt.replies.isEmpty then s.lineState.ackBytes true 1
        else s.lineState.ackBytes false 1).driveAlert) := by
  have kept := State.onMgmt_idle (s := s.lineState) idle
  refine congrArg Host.Outcome.next ?_
  rw [State.lineEvent_eq]
  dsimp only
  rw [kept]
  rfl

theorem exec_replyFetch (n : Nat) : exec (.replyFetch n) s = .next (s.lineState.fetchReply n).driveAlert := by
  have kept := State.onMgmt_idle (s := s.lineState) idle
  refine congrArg Host.Outcome.next ?_
  rw [State.lineEvent_eq, kept]

end

section
variable {s : State} (filling : s.mgmt.line = .filling)
include filling

theorem exec_readRequestControlByte {c : Byte} (reads : c.getLsbD 7 = true) :
    exec (.readRequestControlByte c) s = .next
      ((if s.mgmt.replies.length < 2 then (s.lineState.onMgmt (fun m => { m with line := .readControl c })).ackBytes true 1
        else (s.lineState.onMgmt (fun m => { m with line := .idle })).ackBytes false 1).driveAlert) :=
  congrArg (fun s : State => Host.Outcome.next s.driveAlert)
    (if_pos (by simp [filling, controlWrite, reads]))

theorem exec_writeFrame (bytes : List Byte) :
    exec (.writeFrame bytes) s = .next (s.lineState.endFrame bytes).driveAlert :=
  congrArg (fun s : State => Host.Outcome.next s.driveAlert) (if_pos (by simp [filling]))

end

/-! The stop of a write frame (R179). -/

section
variable {s : State} {c : Byte} {rest : List Byte} (writes : c.getLsbD 7 = false)
include writes

theorem State.endFrame_short (short : rest.length < 2) :
    s.endFrame (c :: rest) =
      ((s.onMgmt (fun m => { m with line := .idle })).onMgmt
        (fun m => { m with frameErrors := m.frameErrors + 1 })).ackBytes true (c :: rest).length :=
  (if_neg (by simp [controlWrite_eq writes])).trans (if_pos short)

theorem State.endFrame_complete (long : ¬rest.length < 2) :
    s.endFrame (c :: rest) =
      ((s.onMgmt (fun m => { m with line := .idle })).onMgmt (fun m =>
        { m with waiting := m.waiting ++
            [{ bytes := (c :: rest).take 36, overlong := 36 < (c :: rest).length }] })).ackBytes true (c :: rest).length :=
  (if_neg (by simp [controlWrite_eq writes])).trans (if_neg long)

end

/-- Settles O44: the branches of the three steps. -/
theorem lineBytesAndWriteFrameTaken : Obligations.LineBytesAndWriteFrameTaken := by
  refine ⟨⟨fun a s idle => ?_, fun c s filling reads => ?_⟩, fun bytes s filling writes => ?_⟩
  · rw [exec_lineAddressByte idle]
    refine ⟨fun own room => ?_, fun own full => ?_, fun other fetch => ?_⟩
    · rw [if_pos (Bool.and_eq_true_iff.2 ⟨beq_iff_eq.2 own, s.mgmt.hasRoom_iff.2 room⟩)]
      rfl
    · have noRoom : s.mgmt.hasRoom = false := Bool.eq_false_iff.2 (mt s.mgmt.hasRoom_iff.1 (Nat.not_lt.2 full))
      rw [noRoom, if_neg (by simp), own, if_neg (by simp)]
      rfl
    · rw [beq_false_of_ne other, beq_false_of_ne fetch]
      rfl
  · rw [exec_readRequestControlByte filling reads]
    refine ⟨fun room => ?_, fun full => ?_⟩
    · rw [if_pos room]
      rfl
    · rw [if_neg (Nat.not_lt.2 full)]
      rfl
  · rw [exec_writeFrame filling]
    refine ⟨fun none => ?_, fun some_ short => ?_, fun long => ?_⟩
    · rw [none]
      rfl
    · obtain ⟨c, rest, rfl⟩ := List.exists_cons_of_length_pos some_
      rw [State.endFrame_short (writes c rfl) (by simpa using short)]
      rfl
    · obtain ⟨c, rest, rfl⟩ := List.exists_cons_of_length_pos (by omega : 0 < bytes.length)
      rw [State.endFrame_complete (writes c rfl) (Nat.not_lt.2 (Nat.le_of_succ_le_succ long))]
      rfl

/-! The fetch of a reply (R182). -/

theorem List.range_map_getD_eq (l : List Byte) (n : Nat) (x : Byte) :
    (List.range n).map (fun i => l.getD i x) = l.take n ++ List.replicate (n - l.length) x := by
  refine List.ext_getElem (by simp; omega) fun i h₁ h₂ => ?_
  rw [List.getElem_map, List.getElem_range, List.getElem_append]
  split
  next inside =>
    rw [List.length_take] at inside
    rw [List.getElem_take, List.getD_eq_getElem _ _ (by omega)]
  next outside =>
    rw [List.length_take] at outside
    rw [List.getElem_replicate, List.getD_eq_default _ _ (by simp at h₁; omega)]

/-- Settles O46: the bytes clocked are those of the reply, and 0xFF past its end. -/
theorem replyFetched : Obligations.ReplyFetched := by
  intro n s idle
  refine ⟨fun none => ?_, fun c control data rest replies => ?_⟩
  · have fetched : s.lineState.fetchReply n = s.lineState.ackBytes false 1 := by
      unfold State.fetchReply
      rw [show s.lineState.mgmt.replies = [] from none]
    rw [exec_replyFetch idle, fetched]
    rfl
  · intro bytes
    have fetched : s.lineState.fetchReply n =
        { (s.lineState.onMgmt (fun m => { m with replies := rest })).ackBytes true 1 with
          bridge := ((s.lineState.onMgmt (fun m => { m with replies := rest })).ackBytes true 1).bridge.send
            (.lineBytes (Reply.clocked { control := c :: control, data := data } n)) } := by
      unfold State.fetchReply
      rw [show s.lineState.mgmt.replies = _ from replies]
    have whole : Reply.bytes { control := c :: control, data := data } = bytes := by
      unfold Reply.bytes
      dsimp only [bytes]
      rw [List.getD_cons_zero, controlCheck]
      cases c.getLsbD 6 <;> simp
    have clocked : Reply.clocked { control := c :: control, data := data } n =
        (List.range n).map (fun i => bytes.getD i 0xFF) := by
      rw [Reply.clocked, whole, List.range_map_getD_eq]
    rw [exec_replyFetch idle, fetched, clocked]
    rfl

end Sys2Proof.Machine
end

section
/-! PROOFS. The processing of a write frame: the tests of R181, and the frames to spaces 0 and 3 (R181, R183, R185,
R187). -/

namespace Sys2Proof.Machine

open Sys2Proof

/-! The tests of R181. -/

section
variable (f : WriteFrame)

theorem WriteFrame.length_eq : f.length = 4 * 2 ^ (f.control.extractLsb' 4 2).toNat := Nat.shiftLeft_eq _ _

theorem WriteFrame.four_le_length : 4 ≤ f.length := by
  rw [f.length_eq]
  exact Nat.le_mul_of_pos_right 4 (by positivity)

theorem WriteFrame.data_length_le : f.data.length ≤ f.length := List.length_take_le _ _

/-- The first data byte is byte 3 of the frame. -/
theorem WriteFrame.data_zero : f.data.getD 0 0 = f.bytes.getD 3 0 := by
  have := f.four_le_length
  rw [WriteFrame.data, List.getD_eq_getElem?_getD, List.getElem?_take_of_lt (by omega), List.getElem?_drop]
  rfl

theorem WriteFrame.lengthRight_iff :
    f.lengthRight = true ↔ f.overlong = false ∧ f.bytes.length = 3 + f.length + (if f.control.getLsbD 6 then 1 else 0) := by
  rw [WriteFrame.lengthRight, Bool.and_eq_true, Bool.not_eq_true', beq_iff_eq]
  exact Iff.rfl

theorem WriteFrame.crcRight_iff :
    f.crcRight = true ↔
      (f.control.getLsbD 6 = true → crc8 (0x58 :: f.bytes.take (3 + f.length)) = f.bytes.getD (3 + f.length) 0) := by
  rw [WriteFrame.crcRight, Bool.or_eq_true, Bool.not_eq_true', beq_iff_eq, controlCheck, Bool.eq_false_iff, imp_iff_not_or]

end

section
variable {f : WriteFrame}

theorem WriteFrame.row_addressed (length : f.lengthRight = true) (crc : f.crcRight = true) : f.row = f.addressed :=
  if_pos (Bool.and_eq_true_iff.2 ⟨length, crc⟩)

theorem WriteFrame.row_discarded (wrong : f.lengthRight = true → f.crcRight = true → f.addressed = .discarded) :
    f.row = .discarded := by
  unfold WriteFrame.row
  split
  next right => exact wrong (Bool.and_eq_true_iff.1 right).1 (Bool.and_eq_true_iff.1 right).2
  next => rfl

theorem WriteFrame.addressed_settings (space : controlSpace f.control = 0) :
    f.addressed = if f.index + f.length ≤ 16 then .settings else .discarded := by
  simp only [WriteFrame.addressed, space]

theorem WriteFrame.addressed_staged (space : controlSpace f.control = 3) :
    f.addressed = if f.index + f.length ≤ 32 then .staged else .discarded := by
  simp only [WriteFrame.addressed, space]

theorem WriteFrame.addressed_other (space : controlSpace f.control ≠ 0 ∧ controlSpace f.control ≠ 3
    ∧ controlSpace f.control ≠ 4) : f.addressed = .discarded := by
  obtain ⟨settings, staged, command⟩ := space
  unfold WriteFrame.addressed
  split
  next h => exact absurd h settings
  next h => exact absurd h staged
  next h => exact absurd h command
  next => rfl

theorem WriteFrame.addressed_index (space : controlSpace f.control = 4) (index : f.index ≠ 0) : f.addressed = .discarded := by
  simp only [WriteFrame.addressed, space]
  exact if_pos (bne_iff_ne.2 index)

/-- A command frame with an unknown code, or with too few data bytes, is discarded. -/
theorem WriteFrame.addressed_command (space : controlSpace f.control = 4)
    (unfit : ∀ row least, commandRow (f.data.getD 0 0).toNat = some (row, least) → f.length < least) :
    f.addressed = .discarded := by
  simp only [WriteFrame.addressed, space]
  split
  · rfl
  · split
    next row least command => exact if_neg (Nat.not_le.2 (unfit row least command))
    next => rfl

end

theorem commandRow_unknown {code : Nat} (unknown : code = 0 ∨ 9 < code) : commandRow code = none := by
  unfold commandRow
  split
  case h_10 => rfl
  all_goals omega

/-- The frames to space 3 have a row of their own: no command has it. -/
theorem commandRow_ne_staged {code : Nat} {row : FrameRow} {least : Nat} (command : commandRow code = some (row, least)) :
    row ≠ .staged := by
  unfold commandRow at command
  split at command
  case h_10 => exact absurd command (by simp)
  all_goals
    cases command
    decide

section
variable {f : WriteFrame}

theorem WriteFrame.addressed_ne_staged (space : controlSpace f.control ≠ 3) : f.addressed ≠ .staged := by
  unfold WriteFrame.addressed
  split
  next => split <;> decide
  next h => exact absurd h space
  next =>
    split
    next => decide
    next =>
      split
      next row least command =>
        split
        · exact commandRow_ne_staged command
        · decide
      next => decide
  next => decide

/-- A frame with the staged descriptor's row lies within its block (R181). -/
theorem WriteFrame.staged_fits (row : f.row = .staged) : f.index + f.length ≤ 32 := by
  have addressed : f.addressed = .staged := by
    unfold WriteFrame.row at row
    split at row
    next => exact row
    next => exact absurd row (by decide)
  have space : controlSpace f.control = 3 := by
    by_contra other
    exact WriteFrame.addressed_ne_staged other addressed
  rw [WriteFrame.addressed_staged space] at addressed
  by_contra far
  rw [if_neg far] at addressed
  exact absurd addressed (by decide)

end

/-! A frame that is discarded (R181, R183). -/

/-- Settles O50: each failed test makes the frame's row the discarding one. -/
theorem frameDiscardedCounted : Obligations.FrameDiscardedCounted := by
  intro s f rest waiting c l space index code failed
  have length : f.length = l := f.length_eq
  have row : f.row = .discarded := by
    refine WriteFrame.row_discarded fun lengthRight crcRight => ?_
    rw [f.lengthRight_iff, length] at lengthRight
    rw [f.crcRight_iff, length] at crcRight
    obtain ⟨fitting, total⟩ := lengthRight
    rcases failed with overlong | short | ⟨checked, crc⟩ | other | ⟨settings, far⟩ | ⟨staged, far⟩ | ⟨command, index⟩
      | ⟨command, unknown⟩
    · exact absurd (fitting.symm.trans overlong) (by decide)
    · exact absurd total short
    · exact absurd (crcRight checked) crc
    · exact WriteFrame.addressed_other other
    · rw [WriteFrame.addressed_settings settings, if_neg (by rw [length]; exact Nat.not_le.2 far)]
    · rw [WriteFrame.addressed_staged staged, if_neg (by rw [length]; exact Nat.not_le.2 far)]
    · exact WriteFrame.addressed_index command index
    · refine WriteFrame.addressed_command command fun row least known => ?_
      rw [f.data_zero, show (f.bytes.getD 3 0).toNat = code from rfl] at known
      rcases unknown with zero | large | ⟨two, few⟩
      · rw [commandRow_unknown (.inl zero)] at known
        exact absurd known (by simp)
      · rw [commandRow_unknown (.inr large)] at known
        exact absurd known (by simp)
      · rw [two] at known
        cases known
        rwa [length]
  have applied : (s.beforeFrame rest).applyFrame f =
      (s.beforeFrame rest).onMgmt (fun m => { m with frameErrors := m.frameErrors + 1 }) := by
    simp only [State.applyFrame, row]
  calc exec .discardedWriteFrame s = .next (s.processAs .discarded) := rfl
    _ = _ := by
      rw [State.processAs_waiting waiting row, applied]
      rfl

/-! A frame to space 3 (R187). -/

theorem StagedDescriptor.bytes_getD (d : StagedDescriptor) :
    d.bytes.getD 0 0 = d.columns ∧ d.bytes.getD 1 0 = d.chunk ∧ ∀ i, d.bytes.getD (8 + i) 0 = d.members.getD i 0 := by
  refine ⟨rfl, rfl, fun i => ?_⟩
  have header : ([d.columns, d.chunk] ++ leBytes 6 0).length = 8 := rfl
  rw [StagedDescriptor.bytes, List.getD_append_right _ _ _ _ (by omega), header, Nat.add_sub_cancel_left]

/-- A byte of a block after bytes are written into it. -/
theorem spliceAt_getD {items new : List Byte} {start : Nat} (fits : start + new.length ≤ items.length) (o : Nat) :
    (spliceAt items start new).getD o 0 =
      if start ≤ o ∧ o < start + new.length then new.getD (o - start) 0 else items.getD o 0 := by
  simp only [List.getD_eq_getElem?_getD]
  split
  next covered => rw [spliceAt_inside fits covered.1 covered.2]
  next away => rw [spliceAt_outside fits (by omega)]

/-- Settles O49: the frame's bytes are written into the descriptor's block, within which they lie. -/
theorem stagedDescriptorStored : Obligations.StagedDescriptorStored := by
  intro s f rest waiting row full
  have applied : (s.beforeFrame rest).applyFrame f =
      (s.beforeFrame rest).onMgmt (fun m => { m with staged := m.staged.write f.index f.data }) := by
    simp only [State.applyFrame, row]
  refine ⟨s.mgmt.staged.write f.index f.data, ?_, ?_⟩
  · calc exec .stagedDescriptorWrite s = .next (s.processAs .staged) := rfl
      _ = _ := by
        rw [State.processAs_waiting waiting row, applied]
        rfl
  · intro byte
    have length : s.mgmt.staged.bytes.length = 32 := by
      rw [StagedDescriptor.bytes, List.length_append, full]
      rfl
    have fits : f.index + f.data.length ≤ s.mgmt.staged.bytes.length := by
      have := WriteFrame.staged_fits row
      have := f.data_length_le
      omega
    have stored := spliceAt_getD fits
    obtain ⟨columns, chunk, members⟩ := s.mgmt.staged.bytes_getD
    refine ⟨?_, ?_, ?_, fun i _ => ?_⟩
    · rw [← columns]
      exact stored 0
    · rw [← chunk]
      exact stored 1
    · rw [StagedDescriptor.write, List.length_drop, spliceAt_length, length]
    · rw [← members]
      refine Eq.trans ?_ (stored (8 + i))
      rw [StagedDescriptor.write, List.getD_eq_getElem?_getD, List.getElem?_drop, List.getD_eq_getElem?_getD]

/-! A frame to space 0 (R185). -/

section
variable {index : Nat} {data : List Byte} {o low high old : Nat}

/-- A setting of one byte is stored clamped where the write covers it, and stands where it does not. -/
theorem stored_byte :
    (covers index data o = true →
        stored (covers index data o) low high (written index data o old) old
          = max low (min high (data.getD (o - index) 0).toNat))
      ∧ (¬covers index data o = true → stored (covers index data o) low high (written index data o old) old = old) :=
  ⟨fun covered => (if_pos covered).trans (congrArg (clamp low high) (written_of_covers covered old)),
    fun away => if_neg away⟩

/-- A byte needs no clamp to 255. -/
theorem stored_whole_byte (covered : covers index data o = true) :
    stored (covers index data o) low 255 (written index data o old) old = max low (data.getD (o - index) 0).toNat := by
  have byte : (data.getD (o - index) 0).toNat < 256 := BitVec.isLt _
  rw [stored_byte.1 covered]
  omega

theorem written_of_not_covers (away : ¬covers index data o = true) : written index data o old = old := if_neg away

/-- A setting of two bytes, low byte first: each byte that the write does not cover is the stored one. -/
theorem stored_word :
    let word := stored (covers index data o || covers index data (o + 1)) low high
      (written index data o (old % 256) + 256 * written index data (o + 1) (old / 256)) old
    let byte := fun o => (data.getD (o - index) 0).toNat
    (covers index data o = true → covers index data (o + 1) = true →
        word = max low (min high (byte o + 256 * byte (o + 1))))
      ∧ (covers index data o = true → ¬covers index data (o + 1) = true →
        word = max low (min high (byte o + 256 * (old / 256))))
      ∧ (¬covers index data o = true → covers index data (o + 1) = true →
        word = max low (min high (old % 256 + 256 * byte (o + 1))))
      ∧ (¬covers index data o = true → ¬covers index data (o + 1) = true → word = old) := by
  intro word byte
  have clamped (either : covers index data o = true ∨ covers index data (o + 1) = true) :
      word = max low (min high (written index data o (old % 256) + 256 * written index data (o + 1) (old / 256))) :=
    if_pos (Bool.or_eq_true_iff.2 either)
  refine ⟨fun lower upper => ?_, fun lower upper => ?_, fun lower upper => ?_, fun lower upper => ?_⟩
  · rw [clamped (.inl lower), written_of_covers lower, written_of_covers upper]
  · rw [clamped (.inl lower), written_of_covers lower, written_of_not_covers upper]
  · rw [clamped (.inr upper), written_of_not_covers lower, written_of_covers upper]
  · exact if_neg fun either => (Bool.or_eq_true_iff.1 either).elim lower upper

end

section
variable {c : Settings} {index : Nat} {data : List Byte}

theorem Settings.write_checkEnable (covered : covers index data 0 = true) :
    (c.write index data).checkEnable = true ↔ (data.getD (0 - index) 0).toNat ≠ 0 := by
  have stored : (c.write index data).checkEnable = (written index data 0 0 != 0) := if_pos covered
  rw [stored, written_of_covers covered, bne_iff_ne]

theorem Settings.write_checkMode (covered : covers index data 1 = true) :
    (c.write index data).checkMode = .strict ↔ (data.getD (1 - index) 0).toNat = 0 := by
  have stored : (c.write index data).checkMode = if written index data 1 0 == 0 then .strict else .persistent :=
    if_pos covered
  rw [stored, written_of_covers covered]
  by_cases zero : (data.getD (1 - index) 0).toNat = 0
  · rw [if_pos (beq_iff_eq.2 zero)]
    exact iff_of_true rfl zero
  · rw [if_neg (mt beq_iff_eq.1 zero)]
    exact iff_of_false (by decide) zero

end

/-- Settles O47: each setting is a case of what the write covers. -/
theorem settingsStored : Obligations.SettingsStored := by
  intro s f rest waiting own
  refine ⟨s.mgmt.settings.write f.index f.data, exec_settingsWrite waiting own, ?_⟩
  intro old byte has
  have covered {o : Nat} : has o ↔ covers f.index f.data o = true := (covers_iff _ _ o).symm
  simp only [covered]
  obtain ⟨bothStarve, lowStarve, highStarve, noStarve⟩ :=
    stored_word (index := f.index) (data := f.data) (o := 8) (low := 1) (high := 1000) (old := old.starveLimit)
  obtain ⟨bothInterval, lowInterval, highInterval, noInterval⟩ :=
    stored_word (index := f.index) (data := f.data) (o := 10) (low := 1) (high := 4096) (old := old.cpInterval)
  exact ⟨Settings.write_checkEnable, fun h => if_neg h, Settings.write_checkMode, fun h => if_neg h,
    stored_whole_byte, stored_byte.2,
    fun h => (stored_byte.1 h).trans (Nat.zero_max _), stored_byte.2, stored_whole_byte, stored_byte.2, stored_byte.1,
    stored_byte.2, bothStarve, lowStarve, highStarve, noStarve, bothInterval, lowInterval, highInterval, noInterval,
    fun h => (if_pos h).trans (congrArg (BitVec.ofNat 5) (written_of_covers h 0)), fun h => if_neg h⟩

end Sys2Proof.Machine
end

section
/-! PROOFS. The commands of the management line: those that are refused, and those that end at once (R188, R190, R192). -/

namespace Sys2Proof.Machine

open Sys2Proof

/-! The processing of a command's frame. -/

/-- The steps of the commands, with the rows of their frames and their codes (R188). -/
def commandTable : List (Instr × FrameRow × Nat) :=
  [(.create, .create, 1), (.admitMembers, .admitMembers, 2), (.start, .start, 3), (.pause, .pause, 4), (.resume, .resume, 5),
    (.cancel, .cancel, 6), (.ack, .ack, 7), (.clearCapture, .clearCapture, 8), (.restart, .restart, 9)]

/-- The commands that are refused while the volume is DISCOVERING (R188). -/
def gatedTable : List (Instr × FrameRow × Nat) := commandTable.take 6

theorem exec_command {i : Instr} {row : FrameRow} {code : Nat} (command : (i, row, code) ∈ commandTable) (s : State) :
    exec i s = .next (s.processAs row) := by
  simp only [commandTable, List.mem_cons, List.not_mem_nil, or_false, Prod.mk.injEq] at command
  rcases command with ⟨rfl, rfl, -⟩ | ⟨rfl, rfl, -⟩ | ⟨rfl, rfl, -⟩ | ⟨rfl, rfl, -⟩ | ⟨rfl, rfl, -⟩ | ⟨rfl, rfl, -⟩
    | ⟨rfl, rfl, -⟩ | ⟨rfl, rfl, -⟩ | ⟨rfl, rfl, -⟩
  all_goals rfl

/-- A command whose frame leaves only the bridge changed. -/
theorem exec_command_bridge {i : Instr} {row : FrameRow} {code : Nat} (command : (i, row, code) ∈ commandTable) {s : State}
    {f : WriteFrame} {rest : List WriteFrame} (waiting : s.mgmt.waiting = f :: rest) (own : f.row = row) {b : Bridge}
    (applied : (s.beforeFrame rest).applyFrame f = { s.beforeFrame rest with bridge := b }) :
    exec i s = .next (s.afterFrame rest b) := by
  rw [exec_command command, State.processAs_waiting waiting own, applied]
  rfl

/-! A command that is refused. -/

theorem State.recordResult_other (s : State) (code : Nat) {result : CommandResult} (other : result ≠ .ok) (b : Bridge) :
    s.recordResult code result b = { s with bridge := b.recorded code result } := by
  rw [State.recordResult, beq_false_of_ne other]
  rfl

theorem CommandRecord.busy_of_executing {r : CommandRecord} {n : Nat} (executing : r.state = .executing n) :
    r.busy = true := by
  rw [CommandRecord.busy, executing]
  rfl

theorem CommandRecord.not_busy {r : CommandRecord} (idle : r.state = .idle) : ¬r.busy = true := by
  rw [CommandRecord.busy, idle]
  decide

section
variable {s : State}

section
variable {n : Nat} (executing : s.bridge.command.state = .executing n)
include executing

theorem State.gatedCommand_busy (code : Nat) (act : Bridge → CommandResult × Bridge) :
    s.gatedCommand code act = { s with bridge := s.bridge.recorded code .busy } :=
  (if_pos (CommandRecord.busy_of_executing executing)).trans (s.recordResult_other code (by decide) _)

theorem State.plainCommand_busy (code : Nat) (act : Bridge → Bridge) :
    s.plainCommand code act = { s with bridge := s.bridge.recorded code .busy } :=
  (if_pos (CommandRecord.busy_of_executing executing)).trans (s.recordResult_other code (by decide) _)

theorem State.takeAdmit_busy (mask : List Byte) : s.takeAdmit mask = { s with bridge := s.bridge.recorded 2 .busy } :=
  (if_pos (CommandRecord.busy_of_executing executing)).trans (s.recordResult_other 2 (by decide) _)

/-- While ADMIT executes, every command is recorded as BUSY. -/
theorem State.applyFrame_busy {i : Instr} {row : FrameRow} {code : Nat} (command : (i, row, code) ∈ commandTable)
    {f : WriteFrame} (own : f.row = row) : s.applyFrame f = { s with bridge := s.bridge.recorded code .busy } := by
  simp only [commandTable, List.mem_cons, List.not_mem_nil, or_false, Prod.mk.injEq] at command
  rcases command with ⟨-, rfl, rfl⟩ | ⟨-, rfl, rfl⟩ | ⟨-, rfl, rfl⟩ | ⟨-, rfl, rfl⟩ | ⟨-, rfl, rfl⟩ | ⟨-, rfl, rfl⟩
    | ⟨-, rfl, rfl⟩ | ⟨-, rfl, rfl⟩ | ⟨-, rfl, rfl⟩
  all_goals simp only [State.applyFrame, own]
  case inr.inl => exact State.takeAdmit_busy executing _
  case inr.inr.inr.inr.inr.inr.inl => exact State.plainCommand_busy executing _ _
  case inr.inr.inr.inr.inr.inr.inr.inl => exact State.plainCommand_busy executing _ _
  case inr.inr.inr.inr.inr.inr.inr.inr =>
    exact (if_pos (CommandRecord.busy_of_executing executing)).trans (s.recordResult_other 9 (by decide) _)
  all_goals exact State.gatedCommand_busy executing _ _

end

section
variable (idle : s.bridge.command.state = .idle)
include idle

theorem State.gatedCommand_discovering (discovering : s.bridge.engine.volume = .discovering) (code : Nat)
    (act : Bridge → CommandResult × Bridge) :
    s.gatedCommand code act = { s with bridge := s.bridge.recorded code .refusedState } :=
  (if_neg (CommandRecord.not_busy idle)).trans
    ((if_pos (beq_iff_eq.2 discovering)).trans (s.recordResult_other code (by decide) _))

theorem State.takeAdmit_discovering (discovering : s.bridge.engine.volume = .discovering) (mask : List Byte) :
    s.takeAdmit mask = { s with bridge := s.bridge.recorded 2 .refusedState } :=
  (if_neg (CommandRecord.not_busy idle)).trans
    ((if_pos (beq_iff_eq.2 discovering)).trans (s.recordResult_other 2 (by decide) _))

/-- A command that is not refused for the volume's state records the result of its own test. -/
theorem State.gatedCommand_taken (found : s.bridge.engine.volume ≠ .discovering) (code : Nat)
    (act : Bridge → CommandResult × Bridge) :
    s.gatedCommand code act = s.recordResult code (act s.bridge).1 (act s.bridge).2 :=
  (if_neg (CommandRecord.not_busy idle)).trans (if_neg (mt beq_iff_eq.1 found))

theorem State.gatedCommand_refused (found : s.bridge.engine.volume ≠ .discovering) (code : Nat)
    {act : Bridge → CommandResult × Bridge} {result : CommandResult} (other : result ≠ .ok)
    (refused : act s.bridge = (result, s.bridge)) :
    s.gatedCommand code act = { s with bridge := s.bridge.recorded code result } := by
  rw [State.gatedCommand_taken idle found, refused, State.recordResult_other _ _ other]

theorem State.plainCommand_taken (code : Nat) (act : Bridge → Bridge) (kept : (act s.bridge).command = s.bridge.command) :
    s.plainCommand code act = { s with bridge := (act s.bridge).recorded code .ok } := by
  refine (if_neg (CommandRecord.not_busy idle)).trans ?_
  rw [Bridge.recorded, kept]
  rfl

/-- While the volume is DISCOVERING, six commands are recorded as refused. -/
theorem State.applyFrame_discovering (discovering : s.bridge.engine.volume = .discovering) {i : Instr} {row : FrameRow}
    {code : Nat} (command : (i, row, code) ∈ gatedTable) {f : WriteFrame} (own : f.row = row) :
    s.applyFrame f = { s with bridge := s.bridge.recorded code .refusedState } := by
  simp only [gatedTable, commandTable, List.take_succ_cons, List.take_zero, List.mem_cons, List.not_mem_nil, or_false,
    Prod.mk.injEq] at command
  rcases command with ⟨-, rfl, rfl⟩ | ⟨-, rfl, rfl⟩ | ⟨-, rfl, rfl⟩ | ⟨-, rfl, rfl⟩ | ⟨-, rfl, rfl⟩ | ⟨-, rfl, rfl⟩
  all_goals simp only [State.applyFrame, own]
  case inr.inl => exact State.takeAdmit_discovering idle discovering _
  all_goals exact State.gatedCommand_discovering idle discovering _ _

end

end

/-! The tests of the commands. -/

section
variable {b : Bridge}

theorem Bridge.create_refused (other : b.engine.volume ≠ .unformed) (d : StagedDescriptor) :
    b.create d = (.refusedState, b) := if_pos (bne_iff_ne.2 other)

theorem Bridge.start_refused (other : b.engine.volume ≠ .stable) (d : StagedDescriptor) :
    b.start d = (.refusedState, b) := if_pos (bne_iff_ne.2 other)

theorem Bridge.pause_refused (still : b.engine.state = .idle ∨ b.engine.state = .failed) :
    b.pause = (.refusedState, b) := by
  have moves : ¬b.engine.takesHold = true := by
    rw [Engine.takesHold_iff]
    rcases still with state | state <;> simp [state]
  have held : b.engine.state ≠ .held := by
    rcases still with state | state <;> simp [state]
  exact (if_neg moves).trans (if_neg (mt beq_iff_eq.1 held))

theorem Bridge.neededBroken_iff : b.neededBroken = true ↔ ∃ l ∈ b.engine.neededLayouts, b.health l = .broken := by
  simp [Bridge.neededBroken, Bridge.broken_iff]

theorem Bridge.resume_refused (refused : (b.engine.state ≠ .held ∧ b.engine.hold = none)
    ∨ ∃ l ∈ b.engine.neededLayouts, b.health l = .broken) : b.resume = (.refusedState, b) := by
  by_cases broken : b.neededBroken = true
  · exact if_pos broken
  · obtain ⟨running, none⟩ := refused.resolve_right (mt Bridge.neededBroken_iff.2 broken)
    exact (if_neg broken).trans ((if_neg (mt beq_iff_eq.1 running)).trans (if_neg (by simp [none])))

theorem Engine.slotLeaving_iff (e : Engine) :
    e.slotLeaving = true ↔ ∃ j, (e.slot j).state = .staging ∨ (e.slot j).state = .writing := by
  have leaving (x : Slot) : x.leaving = true ↔ x.state = .staging ∨ x.state = .writing := by simp [Slot.leaving]
  rw [Engine.slotLeaving, Bool.or_eq_true, leaving, leaving]
  constructor
  · rintro (first | second)
    · exact ⟨.a, first⟩
    · exact ⟨.b, second⟩
  · rintro ⟨i, leaves⟩
    cases i with
    | a => exact .inl leaves
    | b => exact .inr leaves

theorem Engine.cancelAllowed_iff (e : Engine) :
    e.cancelAllowed = true ↔ e.volume = .expanding ∧ e.doneMark = 0 ∧ (e.state = .copy ∨ e.state = .held)
      ∧ (¬∃ j, (e.slot j).state = .staging ∨ (e.slot j).state = .writing) ∧ e.checkpoint = none
      ∧ ¬∃ d, e.durable = some d ∧ d.stage ≠ none := by
  rw [← e.slotLeaving_iff]
  have noStage : (e.durable.bind Durable.stage).isNone = true ↔ ¬∃ d, e.durable = some d ∧ d.stage ≠ none := by
    cases e.durable <;> simp
  simp only [Engine.cancelAllowed, Bool.and_eq_true, Bool.or_eq_true, beq_iff_eq, Bool.not_eq_true', Bool.not_eq_true,
    Option.isNone_iff_eq_none, noStage, and_assoc]

theorem Bridge.cancel_refused (refused : ¬b.engine.cancelAllowed = true) : b.cancel = (.refusedState, b) := if_neg refused

end

/-- Settles O51: the test of the command state first, then the volume's, then that of each command. -/
theorem commandsBusyOrRefused : Obligations.CommandsBusyOrRefused := by
  refine ⟨fun i row code s f rest n command waiting own executing =>
    exec_command_bridge command waiting own (State.applyFrame_busy (s := s.beforeFrame rest) executing command own),
    fun i row code s f rest gated waiting own idle refused => ?_⟩
  have gated : (i, row, code) ∈ gatedTable := gated
  have command : (i, row, code) ∈ commandTable := List.mem_of_mem_take gated
  refine exec_command_bridge command waiting own ?_
  by_cases discovering : s.bridge.engine.volume = .discovering
  · exact State.applyFrame_discovering (s := s.beforeFrame rest) idle discovering gated own
  · have not_ok : CommandResult.refusedState ≠ .ok := by decide
    rcases refused with volume | ⟨rfl, other⟩ | ⟨rfl, other⟩ | ⟨rfl, still⟩ | ⟨rfl, none⟩ | ⟨rfl, unmet⟩
    · exact absurd volume discovering
    · obtain ⟨rfl, rfl⟩ : row = .create ∧ code = 1 := by simpa [gatedTable, commandTable] using gated
      simp only [State.applyFrame, own]
      exact State.gatedCommand_refused (s := s.beforeFrame rest) idle discovering _ not_ok 
        (Bridge.create_refused (b := (s.beforeFrame rest).bridge) other _)
    · obtain ⟨rfl, rfl⟩ : row = .start ∧ code = 3 := by simpa [gatedTable, commandTable] using gated
      simp only [State.applyFrame, own]
      exact State.gatedCommand_refused (s := s.beforeFrame rest) idle discovering _ not_ok 
        (Bridge.start_refused (b := (s.beforeFrame rest).bridge) other _)
    · obtain ⟨rfl, rfl⟩ : row = .pause ∧ code = 4 := by simpa [gatedTable, commandTable] using gated
      simp only [State.applyFrame, own]
      exact State.gatedCommand_refused (s := s.beforeFrame rest) idle discovering _ not_ok 
        (Bridge.pause_refused (b := (s.beforeFrame rest).bridge) still)
    · obtain ⟨rfl, rfl⟩ : row = .resume ∧ code = 5 := by simpa [gatedTable, commandTable] using gated
      simp only [State.applyFrame, own]
      exact State.gatedCommand_refused (s := s.beforeFrame rest) idle discovering _ not_ok 
        (Bridge.resume_refused (b := (s.beforeFrame rest).bridge) none)
    · obtain ⟨rfl, rfl⟩ : row = .cancel ∧ code = 6 := by simpa [gatedTable, commandTable] using gated
      have refused : ¬s.bridge.engine.cancelAllowed = true := by
        rw [Engine.cancelAllowed_iff]
        rintro ⟨volume, mark, state, still, noCheckpoint, noStage⟩
        rcases unmet with other | marked | ⟨notCopy, notHeld⟩ | leaving | running | staged
        · exact other volume
        · exact marked mark
        · exact state.elim notCopy notHeld
        · exact still leaving
        · exact running noCheckpoint
        · exact noStage staged
      simp only [State.applyFrame, own]
      exact State.gatedCommand_refused (s := s.beforeFrame rest) idle discovering _ not_ok 
        (Bridge.cancel_refused (b := (s.beforeFrame rest).bridge) refused)

/-- Settles O58: the two commands that end at once in every volume state. -/
theorem ackAndClearCapture : Obligations.AckAndClearCapture := by
  intro s f rest waiting idle
  refine ⟨fun own => exec_command_bridge (i := .ack) (row := .ack) (code := 7) (by decide) waiting own ?_,
    fun own => exec_command_bridge (i := .clearCapture) (row := .clearCapture) (code := 8) (by decide) waiting own ?_⟩
  · simp only [State.applyFrame, own]
    exact State.plainCommand_taken (s := s.beforeFrame rest) idle 7 _ rfl
  · simp only [State.applyFrame, own]
    exact State.plainCommand_taken (s := s.beforeFrame rest) idle 8 _ rfl

end Sys2Proof.Machine
end

section
/-! PROOFS. The tests of the staged descriptor in CREATE and START (R1, R4, R5, R13, R189, R190). -/

namespace Sys2Proof.Machine

open Sys2Proof

/-! What a descriptor that passes has. -/

/-- The staged descriptor fails a test of R1 that needs no row count. -/
def StagedDescriptor.malformed (d : StagedDescriptor) : Prop :=
  d.columns.toNat < 3 ∨ 24 < d.columns.toNat ∨ d.chunk.toNat ∉ [1, 2, 4, 8, 16, 32] ∨ (∃ m ∈ d.list, 96 ≤ m) ∨ ¬d.list.Nodup

theorem Descriptor.wellFormed_bounds {d : Descriptor} (wellFormed : d.wellFormed = true) :
    3 ≤ d.members.length ∧ d.members.length ≤ 24 ∧ d.chunk ∈ [1, 2, 4, 8, 16, 32] ∧ 1 ≤ d.rows
      ∧ d.rows * (d.members.length - 1) * d.chunk < 2 ^ 48 := by
  simp only [Descriptor.wellFormed, Bool.and_eq_true, decide_eq_true_eq, List.contains_iff_mem] at wellFormed
  obtain ⟨⟨⟨⟨⟨⟨few, many⟩, chunk⟩, rows⟩, -⟩, -⟩, capacity⟩ := wellFormed
  exact ⟨few, many, chunk, rows, capacity⟩

theorem StagedDescriptor.columnsValid_iff (d : StagedDescriptor) :
    d.columnsValid = true ↔ 3 ≤ d.columns.toNat ∧ d.columns.toNat ≤ 24 := by
  simp [StagedDescriptor.columnsValid]

section
variable {d : StagedDescriptor} {rows : Nat} (columns : d.columnsValid = true)
  (wellFormed : (d.withRows rows).wellFormed = true)
include columns wellFormed

theorem StagedDescriptor.not_malformed : ¬d.malformed := by
  obtain ⟨-, -, chunk, -, -⟩ := Descriptor.wellFormed_bounds wellFormed
  rw [d.columnsValid_iff] at columns
  rintro (few | many | size | ⟨m, hm, large⟩ | twice)
  · omega
  · omega
  · exact size chunk
  · exact absurd (Descriptor.member_lt wellFormed m hm) (Nat.not_lt.2 large)
  · exact twice (Descriptor.members_nodup wellFormed)

end

/-! The refusals. -/

section
variable {b : Bridge} {d : StagedDescriptor}

theorem Bridge.createDescriptor_some {desc : Descriptor} (passed : b.createDescriptor d = some desc) :
    d.columnsValid = true ∧ desc.wellFormed = true ∧ (∀ m ∈ desc.members, (b.member m).state = .present)
      ∧ desc = d.withRows (rowsFor d.chunk.toNat (smallest (d.list.map (fun m => (b.member m).capacity)))) := by
  unfold Bridge.createDescriptor at passed
  dsimp only at passed
  split at passed
  next tests =>
    cases passed
    simp only [Bool.and_eq_true, List.all_eq_true, beq_iff_eq] at tests
    exact ⟨tests.1.1, tests.1.2, tests.2, rfl⟩
  next => exact absurd passed (by simp)

theorem Bridge.startDescriptor_some {cur desc : Descriptor} (current : b.engine.current = some cur)
    (passed : b.startDescriptor d = some desc) :
    d.columnsValid = true ∧ desc.wellFormed = true ∧ desc.chunk = cur.chunk ∧ cur.members.length < desc.members.length
      ∧ desc.members.take cur.members.length = cur.members
      ∧ (∀ m ∈ desc.members.drop cur.members.length,
          (b.member m).state = .present ∧ 1024 + cur.rows * cur.chunk ≤ (b.member m).capacity)
      ∧ desc = d.withRows cur.rows := by
  unfold Bridge.startDescriptor at passed
  rw [current] at passed
  dsimp only at passed
  split at passed
  next tests =>
    cases passed
    simp only [Bool.and_eq_true, List.all_eq_true, relatedTarget, beq_iff_eq, decide_eq_true_eq, Bridge.canJoin] at tests
    obtain ⟨⟨⟨columns, wellFormed⟩, ⟨⟨chunk, -⟩, more⟩, same⟩, joins⟩ := tests
    exact ⟨columns, wellFormed, chunk, more, same, joins, rfl⟩
  next => exact absurd passed (by simp)

theorem Bridge.create_invalid (volume : b.engine.volume = .unformed) (failed : b.createDescriptor d = none) :
    b.create d = (.invalidDesc, b) := by
  simp only [Bridge.create, volume, bne_self_eq_false, failed]
  rfl

theorem Bridge.start_invalid (volume : b.engine.volume = .stable) (failed : b.startDescriptor d = none) :
    b.start d = (.invalidDesc, b) := by
  simp only [Bridge.start, volume, bne_self_eq_false, failed]
  cases b.engine.current <;> rfl

end

/-- Settles O52: a descriptor that passed would meet what the refused one fails. -/
theorem descriptorRefused : Obligations.DescriptorRefused := by
  intro s f rest waiting idle d list malformed rows
  refine ⟨fun own volume wrong => ?_, fun cur current own volume wrong => ?_⟩
  · have failed : s.bridge.createDescriptor d = none := Option.eq_none_iff_forall_ne_some.2 fun desc passed => by
      obtain ⟨columns, wellFormed, present, rfl⟩ := Bridge.createDescriptor_some passed
      obtain ⟨-, -, -, some_, capacity⟩ := Descriptor.wellFormed_bounds wellFormed
      rcases wrong with shape | ⟨m, hm, absent⟩ | none | large
      · exact StagedDescriptor.not_malformed columns wellFormed shape
      · exact absent (present m hm)
      · exact absurd none (Nat.ne_of_gt some_)
      · exact absurd capacity (Nat.not_lt.2 large)
    have found : s.bridge.engine.volume ≠ .discovering := by simp [volume]
    refine exec_command_bridge (i := .create) (row := .create) (code := 1) (by decide) waiting own ?_
    simp only [State.applyFrame, own]
    exact State.gatedCommand_refused (s := s.beforeFrame rest) idle found 1 (by decide)
      (Bridge.create_invalid (b := (s.beforeFrame rest).bridge) volume failed)
  · have failed : s.bridge.startDescriptor d = none := Option.eq_none_iff_forall_ne_some.2 fun desc passed => by
      obtain ⟨columns, wellFormed, chunk, more, same, joins, rfl⟩ := Bridge.startDescriptor_some current passed
      obtain ⟨-, -, -, -, capacity⟩ := Descriptor.wellFormed_bounds wellFormed
      rcases wrong with shape | size | fewer | other | large | ⟨m, hm, absent | small⟩
      · exact StagedDescriptor.not_malformed columns wellFormed shape
      · exact size chunk
      · exact absurd more (Nat.not_lt.2 fewer)
      · exact other same
      · exact absurd capacity (Nat.not_lt.2 large)
      · exact absent (joins m hm).1
      · exact absurd (joins m hm).2 (Nat.not_le.2 small)
    have found : s.bridge.engine.volume ≠ .discovering := by simp [volume]
    refine exec_command_bridge (i := .start) (row := .start) (code := 3) (by decide) waiting own ?_
    simp only [State.applyFrame, own]
    exact State.gatedCommand_refused (s := s.beforeFrame rest) idle found 3 (by decide)
      (Bridge.start_invalid (b := (s.beforeFrame rest).bridge) volume failed)

end Sys2Proof.Machine
end

section
/-! PROOFS. The commands that are taken: ADMIT, PAUSE and RESUME (R88, R90, R149, R151, R188). -/

namespace Sys2Proof.Machine

open Sys2Proof

/-! A command that is taken. -/

/-- A gated command that its test accepts: OK is recorded and the rest of the event follows. -/
theorem exec_command_taken {i : Instr} {row : FrameRow} {code : Nat} (command : (i, row, code) ∈ commandTable) {s : State}
    {f : WriteFrame} {rest : List WriteFrame} (waiting : s.mgmt.waiting = f :: rest) (own : f.row = row)
    (idle : s.bridge.command.state = .idle) (found : s.bridge.engine.volume ≠ .discovering)
    {act : Bridge → CommandResult × Bridge} (applied : (s.beforeFrame rest).applyFrame f =
      (s.beforeFrame rest).gatedCommand code act) {b : Bridge} (taken : act (s.beforeFrame rest).bridge = (.ok, b)) :
    exec i s = .next (s.afterFrame rest ((b.recorded code .ok).settle s.mgmt.settings)) := by
  refine exec_command_bridge command waiting own ?_
  rw [applied, State.gatedCommand_taken (s := s.beforeFrame rest) idle found, taken, State.recordResult_ok]
  rfl

/-! ADMIT (R149, R151). -/

theorem maskNames_drop (data : List Byte) (m : Nat) :
    maskNames (data.drop 1) m = (data.getD (1 + m / 8) 0).getLsbD (m % 8) := by
  rw [maskNames, List.getD_eq_getElem?_getD, List.getElem?_drop, List.getD_eq_getElem?_getD]

theorem Bridge.admitted_eq (b : Bridge) (data : List Byte) :
    b.admitted (data.drop 1) = (List.range 96).filter (fun m =>
      ((data.getD (1 + m / 8) 0).getLsbD (m % 8))
        && ((b.member m).state == .empty || (b.member m).state == .present)
        && (b.member m).currentColumn.isNone && (b.member m).targetColumn.isNone) :=
  List.filter_congr fun m _ => by simp only [maskNames_drop, Member.probeable, Bool.and_assoc]

section
variable {s : State} (idle : s.bridge.command.state = .idle) (found : s.bridge.engine.volume ≠ .discovering)
include idle found

theorem State.takeAdmit_none {mask : List Byte} (none : s.bridge.admitted mask = []) :
    s.takeAdmit mask = { s with bridge := s.bridge.recorded 2 .ok } :=
  (if_neg (CommandRecord.not_busy idle)).trans
    ((if_neg (mt beq_iff_eq.1 found)).trans (if_pos (List.isEmpty_iff.2 none)))

theorem State.takeAdmit_some {mask : List Byte} (some_ : s.bridge.admitted mask ≠ []) :
    s.takeAdmit mask =
      { s with bridge := (s.bridge.beginAdmit (s.bridge.admitted mask)).settle s.mgmt.settings } :=
  (if_neg (CommandRecord.not_busy idle)).trans
    ((if_neg (mt beq_iff_eq.1 found)).trans (if_neg (mt List.isEmpty_iff.1 some_)))

end

/-- Settles O55: the members named are those of the mask that may be probed. -/
theorem admitTaken : Obligations.AdmitTaken := by
  intro s f rest waiting own idle found named
  have admitted : (s.beforeFrame rest).bridge.admitted (f.data.drop 1) = named :=
    (s.beforeFrame rest).bridge.admitted_eq f.data
  have applied : (s.beforeFrame rest).applyFrame f = (s.beforeFrame rest).takeAdmit (f.data.drop 1) := by
    simp only [State.applyFrame, own]
  refine ⟨fun none => ?_, fun some_ => ?_⟩
  · refine exec_command_bridge (i := .admitMembers) (row := .admitMembers) (code := 2) (by decide) waiting own ?_
    rw [applied]
    exact State.takeAdmit_none (s := s.beforeFrame rest) idle found (admitted.trans none)
  · refine exec_command_bridge (i := .admitMembers) (row := .admitMembers) (code := 2) (by decide) waiting own ?_
    rw [applied, State.takeAdmit_some (s := s.beforeFrame rest) idle found (admitted ▸ some_), admitted]
    rfl

/-! PAUSE and RESUME (R88, R90). -/

section
variable {b : Bridge}

theorem Bridge.pause_running (running : b.engine.state = .copy ∨ b.engine.state = .fill ∨ b.engine.state = .recover) :
    b.pause = (.ok, b.onEngine (fun e => { e with hold := some (e.hold.getD .command) })) :=
  if_pos (b.engine.takesHold_iff.2 running)

theorem Bridge.pause_held (held : b.engine.state = .held) : b.pause = (.ok, b) := by
  have still : ¬b.engine.takesHold = true := by
    rw [Engine.takesHold_iff, held]
    decide
  exact (if_neg still).trans (if_pos (beq_iff_eq.2 held))

variable (whole : ∀ l ∈ b.engine.neededLayouts, b.health l ≠ .broken)
include whole

theorem Bridge.resume_held (held : b.engine.state = .held) :
    b.resume = (.ok, b.onEngine (fun e => { e with state := e.phaseByMark.engineState, resume := none })) :=
  (if_neg (mt Bridge.neededBroken_iff.1 fun ⟨l, needed, broken⟩ => whole l needed broken)).trans
    (if_pos (beq_iff_eq.2 held))

theorem Bridge.resume_running (running : b.engine.state = .copy ∨ b.engine.state = .fill ∨ b.engine.state = .recover)
    (hold : b.engine.hold ≠ none) : b.resume = (.ok, b.onEngine (fun e => { e with hold := none })) := by
  have moves : ¬(b.engine.state == .held) = true := by
    rw [beq_iff_eq]
    rcases running with state | state | state <;> simp [state]
  have request : (b.engine.takesHold && b.engine.hold.isSome) = true :=
    Bool.and_eq_true_iff.2 ⟨b.engine.takesHold_iff.2 running, Option.isSome_iff_ne_none.2 hold⟩
  exact (if_neg (mt Bridge.neededBroken_iff.1 fun ⟨l, needed, broken⟩ => whole l needed broken)).trans
    ((if_neg moves).trans (if_pos request))

end

/-! The engine enters HELD (R88). -/

theorem Engine.holdsNow_iff (e : Engine) :
    e.holdsNow = true ↔ e.hold ≠ none ∧ (e.state = .copy ∨ e.state = .fill) ∧ e.checkpoint = none
      ∧ ∀ i, (e.slot i).state ≠ .staging ∧ (e.slot i).state ≠ .writing := by
  have still : (!e.slotLeaving) = true ↔ ∀ i, (e.slot i).state ≠ .staging ∧ (e.slot i).state ≠ .writing := by
    rw [Bool.not_eq_true', ← Bool.not_eq_true, Engine.slotLeaving_iff]
    push Not
    exact Iff.rfl
  rw [Engine.holdsNow, Bool.and_eq_true, Bool.and_eq_true, Bool.and_eq_true, still, e.moving_iff, Option.isSome_iff_ne_none,
    Option.isNone_iff_eq_none]
  tauto

theorem Bridge.engineAdvance_holds {b : Bridge} (holds : b.engine.holdsNow = true) : b.engineAdvance = some b.enterHeld :=
  if_pos holds

theorem Bridge.enterHeld_eq (b : Bridge) :
    b.enterHeld =
      { b with
        engine := { b.engine with state := .held, resume := some b.engine.phaseByMark, hold := none }
        causes := if b.engine.hold = some .member then b.causes ||| 0x04 else b.causes } := by
  unfold Bridge.enterHeld
  by_cases cause : b.engine.hold = some .member
  · rw [if_pos cause]
    exact if_pos (beq_iff_eq.2 cause)
  · rw [if_neg cause]
    exact if_neg (mt beq_iff_eq.1 cause)

/-- Settles O56: the commands' tests, the moment a hold takes effect, and the phase that DM gives. -/
theorem pauseAndResumeTaken : Obligations.PauseAndResumeTaken := by
  refine ⟨fun s f rest waiting own idle found => ?_, Engine.holdsNow_iff, fun b holds => Bridge.engineAdvance_holds holds,
    fun b phase resume => ?_, fun s f rest waiting own idle found whole => ?_⟩
  · have applied : (s.beforeFrame rest).applyFrame f = (s.beforeFrame rest).gatedCommand 4 Bridge.pause := by
      simp only [State.applyFrame, own]
    have taken {b : Bridge} := exec_command_taken (i := .pause) (row := .pause) (code := 4) (by decide) waiting own idle found
      applied (b := b)
    exact ⟨fun running => taken (Bridge.pause_running (b := (s.beforeFrame rest).bridge) running),
      fun held => taken (Bridge.pause_held (b := (s.beforeFrame rest).bridge) held)⟩
  · have mark : b.engine.phaseByMark = phase := by
      rcases resume with ⟨volume, rfl⟩ | ⟨volume, c, t, current, target, rfl⟩
      · exact Engine.phaseByMark_initializing volume
      · exact Engine.phaseByMark_expanding volume current target
    rw [Bridge.enterHeld_eq, mark]
  · have applied : (s.beforeFrame rest).applyFrame f = (s.beforeFrame rest).gatedCommand 5 Bridge.resume := by
      simp only [State.applyFrame, own]
    have taken {b : Bridge} := exec_command_taken (i := .resume) (row := .resume) (code := 5) (by decide) waiting own idle
      found applied (b := b)
    have resumed (held : s.bridge.engine.state = .held) :=
      taken (Bridge.resume_held (b := (s.beforeFrame rest).bridge) whole held)
    refine ⟨fun c t held volume current target => ?_, fun held volume => ?_, fun running hold =>
      taken (Bridge.resume_running (b := (s.beforeFrame rest).bridge) whole running hold)⟩
    · have phase : s.bridge.engine.phaseByMark.engineState =
          if s.bridge.engine.doneMark ≤ (c.rows * (c.members.length - 1) - 1) / (t.members.length - 1)
            then .copy else .fill := by
        rw [Engine.phaseByMark_expanding volume current target]
        split <;> rfl
      rw [← phase]
      exact resumed held
    · have phase : s.bridge.engine.phaseByMark.engineState = .fill := by
        rw [Engine.phaseByMark_initializing volume]
        rfl
      rw [← phase]
      exact resumed held

end Sys2Proof.Machine
end

section
/-! PROOFS. CREATE, START and CANCEL taken (R85, R86, R91, R145, R189, R190). -/

namespace Sys2Proof.Machine

open Sys2Proof

/-! The member table takes columns (R145). -/

theorem getD_mapIdx {members : List Member} {f : Nat → Member → Member} {m : Nat} (inside : m < members.length) :
    (members.mapIdx f).getD m Member.reset = f m (members.getD m Member.reset) := by
  rw [List.getD_eq_getElem _ _ (by rwa [List.length_mapIdx]), List.getElem_mapIdx, List.getD_eq_getElem _ _ inside]

theorem getD_mapIdx_outside {members : List Member} {f : Nat → Member → Member} {m : Nat} (outside : ¬m < members.length) :
    (members.mapIdx f).getD m Member.reset = members.getD m Member.reset := by
  rw [List.getD_eq_default _ _ (by rw [List.length_mapIdx]; omega), List.getD_eq_default _ _ (by omega)]

/-- A member number whose entry is not EMPTY is in the table. -/
theorem inside_of_state {members : List Member} {m : Nat} (state : (members.getD m Member.reset).state ≠ .empty) :
    m < members.length := by
  by_contra outside
  rw [List.getD_eq_default _ _ (by omega)] at state
  exact state rfl

section
variable {desc : Descriptor} {members : List Member} {m : Nat}

theorem takeColumns_column {c : Nat} (column : columnOf desc.members m = some c) (inside : m < members.length) :
    (takeColumns desc members).getD m Member.reset =
      { members.getD m Member.reset with state := .online, currentColumn := some c } := by
  rw [takeColumns, getD_mapIdx inside]
  simp only [column]

theorem takeColumns_other (other : m ∉ desc.members) :
    (takeColumns desc members).getD m Member.reset = members.getD m Member.reset := by
  by_cases inside : m < members.length
  · rw [takeColumns, getD_mapIdx inside]
    simp only [columnOf_none other]
  · exact getD_mapIdx_outside inside

theorem takeTargetColumns_column {cur : Descriptor} {c : Nat} (column : columnOf desc.members m = some c)
    (inside : m < members.length) :
    (takeTargetColumns cur desc members).getD m Member.reset =
      { members.getD m Member.reset with
        targetColumn := some c
        state := if cur.members.length ≤ c then .online else (members.getD m Member.reset).state } := by
  rw [takeTargetColumns, getD_mapIdx inside]
  simp only [column]
  rfl

theorem takeTargetColumns_other (cur : Descriptor) (other : m ∉ desc.members) :
    (takeTargetColumns cur desc members).getD m Member.reset = members.getD m Member.reset := by
  by_cases inside : m < members.length
  · rw [takeTargetColumns, getD_mapIdx inside]
    simp only [columnOf_none other]
  · exact getD_mapIdx_outside inside

end

theorem failedColumns_online {members : List Member} {desc : Descriptor}
    (online : ∀ m ∈ desc.members, (members.getD m Member.reset).state = .online) : failedColumns members desc = 0 := by
  rw [failedColumns, List.length_eq_zero_iff, List.filter_eq_nil_iff]
  intro m hm
  rw [online m hm]
  decide

/-! CREATE (R85, R189). -/

/-- The bridge whose volume is created, before the opening checkpoint is started (R85). -/
def Bridge.creating (b : Bridge) (desc : Descriptor) : Bridge :=
  (({ b with members := takeColumns desc b.members } : Bridge).onEngine (fun e =>
    { e with
      current := some desc, target := none, volume := .initializing, doneMark := 0, checkMark := 0
      state := .fill })).refreshHealth

section
variable {b : Bridge} {d : StagedDescriptor}

theorem Bridge.createDescriptor_passed {desc : Descriptor} (columns : 3 ≤ d.columns.toNat ∧ d.columns.toNat ≤ 24)
    (rows : desc = d.withRows (rowsFor d.chunk.toNat (smallest (d.list.map (fun m => (b.member m).capacity)))))
    (wellFormed : desc.wellFormed = true) (present : ∀ m ∈ desc.members, (b.member m).state = .present) :
    b.createDescriptor d = some desc := by
  subst rows
  refine if_pos ?_
  simp only [Bool.and_eq_true, List.all_eq_true, beq_iff_eq]
  exact ⟨⟨d.columnsValid_iff.2 columns, wellFormed⟩, present⟩

theorem Bridge.create_taken {desc : Descriptor} (volume : b.engine.volume = .unformed)
    (passed : b.createDescriptor d = some desc) :
    b.create d = (.ok, (b.creating desc).startCheckpoint .openingCreate none) := by
  simp only [Bridge.create, volume, bne_self_eq_false, passed]
  rfl

end

/-- Settles O53: the members are ONLINE in their columns, so the opening checkpoint is started. -/
theorem createTaken : Obligations.CreateTaken := by
  intro s f rest waiting own idle volume d list rows desc few many wellFormed present
  have found : s.bridge.engine.volume ≠ .discovering := by simp [volume]
  have applied : (s.beforeFrame rest).applyFrame f =
      (s.beforeFrame rest).gatedCommand 1 (fun b => b.create (s.beforeFrame rest).mgmt.staged) := by
    simp only [State.applyFrame, own]
  have passed : (s.beforeFrame rest).bridge.createDescriptor d = some desc :=
    Bridge.createDescriptor_passed ⟨few, many⟩ rfl wellFormed present
  have taken := exec_command_taken (i := .create) (row := .create) (code := 1) (by decide) waiting own idle found applied
    (Bridge.create_taken (b := (s.beforeFrame rest).bridge) volume passed)
  let c := (s.beforeFrame rest).bridge.creating desc
  have columnAt {i m : Nat} (at_ : list[i]? = some m) : columnOf desc.members m = some i :=
    columnOf_some (Descriptor.members_nodup wellFormed) at_
  have inside {m : Nat} (hm : m ∈ list) : m < s.bridge.members.length :=
    inside_of_state (by rw [show s.bridge.members.getD m Member.reset = s.bridge.member m from rfl, present m hm]; decide)
  have member {i m : Nat} (at_ : list[i]? = some m) :
      c.member m = { s.bridge.member m with state := .online, currentColumn := some i } :=
    takeColumns_column (columnAt at_) (inside (List.mem_of_getElem? at_))
  have online {m : Nat} (hm : m ∈ desc.members) : (c.member m).state = .online := by
    obtain ⟨i, at_⟩ := List.mem_iff_getElem?.1 hm
    rw [member at_]
  have health : layoutHealth c.members (some desc) = .ok := layoutHealth_ok (failedColumns_online fun m hm => online hm)
  have starts := Bridge.startCheckpoint_starts (b := c) (kind := .openingCreate) (stage := none)
    (onlineMembers_enough (desc := desc) rfl (by rw [health]; decide) fun m hm _ => online hm)
  obtain ⟨checkpoint, kind, -, -, engine, port, router, members, pacing, causes, command⟩ := starts
  have sameMember (m : Nat) : (c.startCheckpoint .openingCreate none).member m = c.member m := by
    rw [Bridge.member, members]
    rfl
  refine ⟨_, c, taken, rfl, ?_, ?_, ?_, ?_, ?_, ?_, ?_, ?_, fun below => ?_, ?_, fun i m at_ => ?_, fun m hm => ?_,
    fun m hm => ?_, router, pacing, causes, ?_, port⟩
  · rw [show (Bridge.recorded _ 1 .ok).members = (c.startCheckpoint .openingCreate none).members from rfl, members, ← health]
    rfl
  · exact (Bridge.startCheckpoint_health c .openingCreate none .current).trans health
  · exact Bridge.startCheckpoint_health c .openingCreate none .target
  · exact congrArg Engine.current engine
  · exact congrArg Engine.volume engine
  · exact congrArg Engine.state engine
  · exact congrArg Engine.doneMark engine
  · exact congrArg Engine.checkMark engine
  · exact (congrArg Engine.generation engine).trans (nextGeneration_below below)
  · exact (congrArg (fun e : Engine => e.checkpoint.map Checkpoint.kind) engine).trans (congrArg some kind)
  · have taken : (c.startCheckpoint .openingCreate none).member m = _ := (sameMember m).trans (member at_)
    exact ⟨congrArg Member.state taken, congrArg Member.currentColumn taken⟩
  · obtain ⟨i, at_⟩ := List.mem_iff_getElem?.1 hm
    have taken : (c.startCheckpoint .openingCreate none).member m = _ := (sameMember m).trans (member at_)
    exact ⟨(congrArg Member.targetColumn taken :), (congrArg Member.capacity taken :)⟩
  · exact (sameMember m).trans (takeColumns_other hm)
  · have before : (c.startCheckpoint .openingCreate none).command = s.bridge.command := command
    rw [Bridge.recorded, before, idle]

/-! START (R86, R190). -/

/-- The bridge whose volume expands, before the opening checkpoint is started (R86). -/
def Bridge.starting (b : Bridge) (cur desc : Descriptor) : Bridge :=
  (({ b with members := takeTargetColumns cur desc b.members } : Bridge).onEngine (fun e =>
    { e with target := some desc, volume := .expanding, doneMark := 0, checkMark := 0, state := .copy })).refreshHealth

section
variable {b : Bridge} {d : StagedDescriptor} {cur desc : Descriptor} (current : b.engine.current = some cur)
include current

theorem Bridge.startDescriptor_passed (columns : 3 ≤ d.columns.toNat ∧ d.columns.toNat ≤ 24)
    (rows : desc = d.withRows cur.rows) (wellFormed : desc.wellFormed = true) (chunk : desc.chunk = cur.chunk)
    (more : cur.members.length < desc.members.length) (same : desc.members.take cur.members.length = cur.members)
    (joins : ∀ m ∈ desc.members.drop cur.members.length,
      (b.member m).state = .present ∧ 1024 + cur.rows * cur.chunk ≤ (b.member m).capacity) :
    b.startDescriptor d = some desc := by
  subst rows
  unfold Bridge.startDescriptor
  rw [current]
  refine if_pos ?_
  simp only [Bool.and_eq_true, List.all_eq_true, relatedTarget, beq_iff_eq, decide_eq_true_eq, Bridge.canJoin]
  exact ⟨⟨⟨d.columnsValid_iff.2 columns, wellFormed⟩, ⟨⟨chunk, rfl⟩, more⟩, same⟩, joins⟩

theorem Bridge.start_taken (volume : b.engine.volume = .stable) (passed : b.startDescriptor d = some desc) :
    b.start d = (.ok, (b.starting cur desc).startCheckpoint .openingStart none) := by
  simp only [Bridge.start, volume, bne_self_eq_false, passed, current]
  rfl

end

/-- Enough columns of an expansion's target are ONLINE for a checkpoint: at most one of the current members is not, and
every added one is. -/
theorem online_enough {old added : List Nat} {before after : Nat → Bool} (few : old.length ≤ (old.filter before).length + 1)
    (kept : ∀ m ∈ old, before m = true → after m = true) (joined : ∀ m ∈ added, after m = true) :
    (old ++ added).length - 1 ≤ ((old ++ added).filter after).length := by
  have olds : (old.filter before).length ≤ (old.filter after).length := by
    rw [← List.countP_eq_length_filter, ← List.countP_eq_length_filter]
    exact List.countP_mono_left kept
  have all : added.filter after = added := List.filter_eq_self.2 joined
  rw [List.filter_append, all, List.length_append, List.length_append]
  omega

/-- Settles O54: the added members are ONLINE in their columns, so the opening checkpoint is started. -/
theorem startTaken : Obligations.StartTaken := by
  intro s f rest cur waiting own idle volume current some_ few d list desc least most wellFormed chunk more same joins
  have found : s.bridge.engine.volume ≠ .discovering := by simp [volume]
  have applied : (s.beforeFrame rest).applyFrame f =
      (s.beforeFrame rest).gatedCommand 3 (fun b => b.start (s.beforeFrame rest).mgmt.staged) := by
    simp only [State.applyFrame, own]
  have passed : (s.beforeFrame rest).bridge.startDescriptor d = some desc :=
    Bridge.startDescriptor_passed (b := (s.beforeFrame rest).bridge) current ⟨least, most⟩ rfl wellFormed chunk more same
      joins
  have taken := exec_command_taken (i := .start) (row := .start) (code := 3) (by decide) waiting own idle found applied
    (Bridge.start_taken (b := (s.beforeFrame rest).bridge) current volume passed)
  let c := (s.beforeFrame rest).bridge.starting cur desc
  have columnAt {i m : Nat} (at_ : list[i]? = some m) : columnOf desc.members m = some i :=
    columnOf_some (Descriptor.members_nodup wellFormed) at_
  have member {i m : Nat} (at_ : list[i]? = some m) (inside : m < s.bridge.members.length) :
      c.member m =
        { s.bridge.member m with
          targetColumn := some i, state := if cur.members.length ≤ i then .online else (s.bridge.member m).state } :=
    takeTargetColumns_column (columnAt at_) inside
  have added {i m : Nat} (beyond : cur.members.length ≤ i) (at_ : list[i]? = some m) :
      (c.member m).state = .online ∧ (c.member m).targetColumn = some i := by
    have dropped : m ∈ desc.members.drop cur.members.length := List.mem_iff_getElem?.2
      ⟨i - cur.members.length, by rw [List.getElem?_drop, Nat.add_sub_cancel' beyond]; exact at_⟩
    obtain ⟨present, -⟩ := joins m dropped
    have inside : m < s.bridge.members.length := inside_of_state (by
      rw [show s.bridge.members.getD m Member.reset = s.bridge.member m from rfl, present]
      decide)
    rw [member at_ inside]
    exact ⟨if_pos beyond, rfl⟩
  have kept {i m : Nat} (below : i < cur.members.length) (at_ : list[i]? = some m) (inside : m < s.bridge.members.length) :
      c.member m = { s.bridge.member m with targetColumn := some i } := by
    rw [member at_ inside, if_neg (Nat.not_le.2 below)]
  have split_ : desc.members = cur.members ++ desc.members.drop cur.members.length := by
    rw [← List.take_append_drop cur.members.length desc.members, same]
    simp
  have enough : c.layoutColumns .target - 1 ≤ (c.onlineMembers .target).length := by
    rw [c.layoutColumns_eq, show c.engine.columnsOf .target = desc.members from rfl,
      show c.onlineMembers .target = desc.members.filter c.memberOnline from rfl, split_]
    refine online_enough few (fun m hm online => ?_) (fun m hm => ?_)
    · obtain ⟨i, at_⟩ := List.mem_iff_getElem?.1 hm
      have below : i < cur.members.length := (List.getElem?_eq_some_iff.1 at_).1
      rw [← same, List.getElem?_take_of_lt below] at at_
      have state : (s.bridge.member m).state = .online := (s.bridge.memberOnline_iff m).1 online
      have inside : m < s.bridge.members.length := inside_of_state (by
        rw [show s.bridge.members.getD m Member.reset = s.bridge.member m from rfl, state]
        decide)
      refine (c.memberOnline_iff m).2 ?_
      rw [kept below at_ inside]
      exact state
    · obtain ⟨i, at_⟩ := List.mem_iff_getElem?.1 hm
      rw [List.getElem?_drop] at at_
      exact (c.memberOnline_iff m).2 (added (Nat.le_add_right _ _) at_).1
  obtain ⟨checkpoint, kind, -, -, engine, port, router, members, pacing, causes, command⟩ :=
    Bridge.startCheckpoint_starts (b := c) (kind := .openingStart) (stage := none) enough
  have sameMember (m : Nat) : (c.startCheckpoint .openingStart none).member m = c.member m := by
    rw [Bridge.member, members]
    rfl
  refine ⟨_, c, taken, rfl, ?_, ?_, ?_, ?_, ?_, ?_, ?_, ?_, ?_, fun below => ?_, ?_, fun i m beyond at_ => ?_,
    fun i m below at_ inside => ?_, fun m hm => ?_, router, pacing, causes, ?_, port⟩
  · rw [show (Bridge.recorded _ 3 .ok).members = (c.startCheckpoint .openingStart none).members from rfl, members, ← current]
    rfl
  · rw [show (Bridge.recorded _ 3 .ok).members = (c.startCheckpoint .openingStart none).members from rfl, members, ← current]
    exact Bridge.startCheckpoint_health c .openingStart none .current
  · rw [show (Bridge.recorded _ 3 .ok).members = (c.startCheckpoint .openingStart none).members from rfl, members]
    exact Bridge.startCheckpoint_health c .openingStart none .target
  · exact congrArg Engine.target engine
  · exact (congrArg Engine.current engine).trans current
  · exact congrArg Engine.volume engine
  · exact congrArg Engine.state engine
  · exact congrArg Engine.doneMark engine
  · exact congrArg Engine.checkMark engine
  · exact (congrArg Engine.generation engine).trans (nextGeneration_below below)
  · exact (congrArg (fun e : Engine => e.checkpoint.map Checkpoint.kind) engine).trans (congrArg some kind)
  · rw [show Bridge.member (Bridge.recorded _ 3 .ok) m = (c.startCheckpoint .openingStart none).member m from rfl, sameMember]
    exact added beyond at_
  · exact (sameMember m).trans (kept below at_ inside)
  · exact (sameMember m).trans (takeTargetColumns_other cur hm)
  · have before : (c.startCheckpoint .openingStart none).command = s.bridge.command := command
    rw [Bridge.recorded, before, idle]

/-! CANCEL (R91). -/

/-- The bridge whose expansion is cancelled, before the engine's lock work is withdrawn (R91). -/
def Bridge.cancelling (b : Bridge) : Bridge :=
  { b with
    engine := { b.engine with slotA := Slot.reset, slotB := Slot.reset, cancel := true }
    port := { b.port with
      gathers := []
      table := b.port.table.map (fun q => { q with pieces := q.pieces.map (fun p => { p with slot := none }) }) } }

theorem Bridge.cancel_taken {b : Bridge} (allowed : b.engine.cancelAllowed = true) :
    b.cancel = (.ok, b.cancelling.withdrawChunks.startCheckpoint .cancel none) := if_pos allowed

/-- Settles O57: the current layout has members enough, so the cancel checkpoint is started. -/
theorem cancelTaken : Obligations.CancelTaken := by
  intro s f rest cur waiting own idle volume mark state still running noStage current few dropped
  have found : s.bridge.engine.volume ≠ .discovering := by simp [volume]
  have applied : (s.beforeFrame rest).applyFrame f = (s.beforeFrame rest).gatedCommand 6 Bridge.cancel := by
    simp only [State.applyFrame, own]
  have allowed : s.bridge.engine.cancelAllowed = true := by
    refine (Engine.cancelAllowed_iff _).2 ⟨volume, mark, state, fun ⟨j, leaves⟩ => ?_, running,
      fun ⟨d, durable, stage⟩ => stage (noStage d durable)⟩
    exact leaves.elim (still j).1 (still j).2
  have taken := exec_command_taken (i := .cancel) (row := .cancel) (code := 6) (by decide) waiting own idle found applied
    (Bridge.cancel_taken (b := (s.beforeFrame rest).bridge) allowed)
  have only := dropped.withdrawChunks_only
  have columns (l : Layout) : dropped.withdrawChunks.engine.columnsOf l = dropped.engine.columnsOf l := by
    rw [only]
    rfl
  have currentColumns : dropped.engine.columnsOf .current = cur.members := by
    rw [show dropped.engine.columnsOf .current = s.bridge.engine.columnsOf .current from rfl, Engine.columnsOf,
      Engine.descriptor, current]
    rfl
  have online : dropped.withdrawChunks.onlineMembers .current = cur.members.filter s.bridge.memberOnline := by
    rw [Bridge.onlineMembers_eq, columns, currentColumns]
    refine List.filter_congr fun m _ => ?_
    rw [show dropped.withdrawChunks.member m = s.bridge.member m by rw [only]; rfl]
    exact (beq_eq_decide _ _).symm
  have enough : dropped.withdrawChunks.layoutColumns .current - 1
      ≤ (dropped.withdrawChunks.onlineMembers .current).length := by
    rw [Bridge.layoutColumns_eq, columns, currentColumns, online]
    omega
  obtain ⟨checkpoint, kind, -, -, engine, port, router, members, pacing, causes, command⟩ :=
    Bridge.startCheckpoint_starts (b := dropped.withdrawChunks) (kind := .cancel) (stage := none) enough
  have engine : (dropped.withdrawChunks.startCheckpoint .cancel none).engine =
      { dropped.engine with generation := nextGeneration s.bridge.engine.generation, checkpoint := some checkpoint } := by
    rw [engine, only]
    rfl
  have port : (dropped.withdrawChunks.startCheckpoint .cancel none).port = dropped.port := by rw [port, only]; rfl
  refine ⟨_, taken, rfl, fun j => ?_, ?_, ?_, ?_, ?_, ?_, fun below => ?_, ?_, ?_, ?_, ?_, ?_, ?_, ?_, ?_, ?_⟩
  · have slot : ((dropped.withdrawChunks.startCheckpoint .cancel none).engine.slot j) = Slot.reset := by
      rw [engine]
      cases j <;> rfl
    exact ⟨congrArg Slot.state slot, congrArg Slot.pending slot⟩
  · exact congrArg ArrayPort.gathers port
  · exact congrArg Engine.cancel engine
  · exact (congrArg Engine.state engine :)
  · exact (congrArg Engine.volume engine).trans volume
  · exact (congrArg Engine.doneMark engine).trans mark
  · exact (congrArg Engine.generation engine).trans (nextGeneration_below below)
  · exact (congrArg (fun e : Engine => e.checkpoint.map Checkpoint.kind) engine).trans (congrArg some kind)
  · exact members.trans (by rw [only]; rfl)
  · exact router.trans (by rw [only]; rfl)
  · exact pacing.trans (by rw [only]; rfl)
  · exact causes.trans (by rw [only]; rfl)
  · exact (congrArg ArrayPort.foreground port :)
  · exact (congrArg ArrayPort.capture port :)
  · exact (congrArg ArrayPort.check port :)
  · have before : (dropped.withdrawChunks.startCheckpoint .cancel none).command = s.bridge.command := by
      rw [command, only]
      rfl
    rw [Bridge.recorded]
    refine (congrArg (fun r : CommandRecord => { r with code := 6, result := .ok, sequence := r.sequence + 1 }) before).trans ?_
    rw [idle]

end Sys2Proof.Machine
end

section
/-! PROOFS. The reply to a read request: the blocks that the spaces return (R182, R184 to R187). -/

namespace Sys2Proof.Machine

open Sys2Proof

/-! Bytes read from a block. -/

/-- The data are the bytes of a block from an offset, zero past its end. -/
def readsFrom (data block : List Byte) (start : Nat) : Prop := ∀ i < data.length, data[i]? = some (block.getD (start + i) 0)

theorem bytesFrom_reads (block : List Byte) (start length : Nat) : readsFrom (bytesFrom block start length) block start := by
  intro i inside
  rw [bytesFrom_length] at inside
  simp [bytesFrom, inside]

/-- Zeros at the end of a block read as the zeros past its end. -/
theorem getD_append_zeros (block : List Byte) (n i : Nat) : (block ++ List.replicate n 0).getD i 0 = block.getD i 0 := by
  simp only [List.getD_eq_getElem?_getD]
  rcases Nat.lt_or_ge i block.length with inside | beyond
  · rw [List.getElem?_append_left inside]
  · rw [List.getElem?_append_right beyond, List.getElem?_eq_none beyond, List.getElem?_replicate]
    split <;> rfl

theorem bytesFrom_zeros {block : List Byte} (zeros : ∀ x ∈ block, x = 0) (start length : Nat) :
    ∀ x ∈ bytesFrom block start length, x = 0 := by
  intro x hx
  obtain ⟨i, -, rfl⟩ := List.mem_map.1 hx
  rw [List.getD_eq_getElem?_getD]
  cases at_ : block[start + i]? with
  | none => rfl
  | some y => exact zeros y (List.mem_of_getElem? at_)

theorem replicate_zeros (n : Nat) : ∀ x ∈ List.replicate n (0 : Byte), x = 0 := fun _ hx => List.eq_of_mem_replicate hx

theorem controlLength_eq (c : Byte) : controlLength c = 4 * 2 ^ (c.extractLsb' 4 2).toNat := Nat.shiftLeft_eq _ _

/-! The spaces. -/

section
variable (t : State) (index length : Nat)

theorem State.spaceBytes_length (space : Nat) : (t.spaceBytes space index length).length = length := by
  unfold State.spaceBytes
  split
  case h_3 => split <;> simp
  all_goals simp

theorem State.spaceBytes_settings :
    let c := t.mgmt.settings
    readsFrom (t.spaceBytes 0 index length)
      ([if c.checkEnable then 1 else 0, if c.checkMode = .persistent then 1 else 0, BitVec.ofNat 8 c.cmdTimeout
        , BitVec.ofNat 8 c.retryLimit, BitVec.ofNat 8 c.mediaLimit, BitVec.ofNat 8 c.yieldEnter
        , BitVec.ofNat 8 c.yieldExit, BitVec.ofNat 8 c.weight] ++ leBytes 2 c.starveLimit
        ++ leBytes 2 c.cpInterval ++ [c.alertEnable.setWidth 8]) index := by
  intro c i inside
  rw [← getD_append_zeros _ 3]
  have mode : (if c.checkMode == .persistent then 1 else 0 : Byte) = if c.checkMode = .persistent then 1 else 0 :=
    if_congr beq_iff_eq rfl rfl
  rw [← mode]
  exact bytesFrom_reads c.bytes index length i inside

theorem State.spaceBytes_status :
    let e := t.bridge.engine
    let r := t.bridge.command
    readsFrom (t.spaceBytes 1 index length)
      ([BitVec.ofNat 8 e.volume.code, BitVec.ofNat 8 e.state.code, BitVec.ofNat 8 t.bridge.pacing.code
        , BitVec.ofNat 8 r.state.code, BitVec.ofNat 8 r.code, BitVec.ofNat 8 r.result.code, r.sequence
        , t.bridge.causes.setWidth 8, BitVec.ofNat 8 t.bridge.port.foreground
        , BitVec.ofNat 8 (t.bridge.health .current).code, BitVec.ofNat 8 (t.bridge.health .target).code, 0]
        ++ leBytes 6 e.doneMark ++ leBytes 6 e.checkMark ++ leBytes 8 e.generation.toNat
        ++ leBytes 6 ((e.current.map Descriptor.rows).getD 0) ++ leBytes 2 t.bridge.port.captures.toNat
        ++ leBytes 2 t.mgmt.frameErrors.toNat) index := by
  intro e r i inside
  rw [← getD_append_zeros _ 6]
  exact bytesFrom_reads t.statusBytes index length i inside

theorem columnByte_eq (c : Option Nat) : columnByte c = BitVec.ofNat 8 (c.getD 255) := by
  cases c <;> rfl

theorem State.spaceBytes_member (small : index < 96) :
    let m := t.bridge.member index
    readsFrom (t.spaceBytes 2 index length)
      ([BitVec.ofNat 8 m.state.code, BitVec.ofNat 8 (m.currentColumn.getD 255)
        , BitVec.ofNat 8 (m.targetColumn.getD 255), BitVec.ofNat 8 m.media] ++ leBytes 6 m.capacity
        ++ List.replicate 6 0 ++ leBytes 8 ((m.best.map BitVec.toNat).getD 0)) 0 := by
  intro m
  have entry : t.spaceBytes 2 index length = bytesFrom m.bytes 0 length := if_pos small
  rw [entry, ← columnByte_eq, ← columnByte_eq]
  exact bytesFrom_reads m.bytes 0 length

theorem State.spaceBytes_staged :
    readsFrom (t.spaceBytes 3 index length)
      ([t.mgmt.staged.columns, t.mgmt.staged.chunk] ++ List.replicate 6 0 ++ t.mgmt.staged.members) index :=
  bytesFrom_reads t.mgmt.staged.bytes index length

theorem State.spaceBytes_capture {x : Capture} (capture : t.bridge.port.capture = some x) :
    readsFrom (t.spaceBytes 5 index length)
      ([if x.cause = .check then 1 else 2, if x.overrun then 1 else 0, x.computed, 0] ++ x.header) index := by
  have code : (if x.cause = .check then 1 else 2 : Byte) = x.cause.code := by cases x.cause <;> rfl
  have block : t.spaceBytes 5 index length = bytesFrom (captureBytes (some x)) index length := by
    rw [← capture]
    rfl
  rw [code, block]
  exact bytesFrom_reads (captureBytes (some x)) index length

theorem State.spaceBytes_noCapture (none : t.bridge.port.capture = none) : ∀ x ∈ t.spaceBytes 5 index length, x = 0 := by
  have block : t.spaceBytes 5 index length = bytesFrom (captureBytes Option.none) index length := by
    rw [← none]
    rfl
  rw [block]
  exact bytesFrom_zeros (replicate_zeros 20) index length

theorem State.spaceBytes_noMember (large : 96 ≤ index) : ∀ x ∈ t.spaceBytes 2 index length, x = 0 := by
  have entry : t.spaceBytes 2 index length = List.replicate length 0 := if_neg (Nat.not_lt.2 large)
  rw [entry]
  exact replicate_zeros length

theorem State.spaceBytes_none {space : Nat} (other : space = 4 ∨ 7 ≤ space) :
    ∀ x ∈ t.spaceBytes space index length, x = 0 := by
  have none : t.spaceBytes space index length = List.replicate length 0 := by
    unfold State.spaceBytes
    split
    case h_7 => rfl
    all_goals omega
  rw [none]
  exact replicate_zeros length

/-! The descriptors (R2, R187; log entry 22). -/

theorem State.spaceBytes_descriptors :
    t.spaceBytes 6 index length =
      bytesFrom (descriptorBytes (t.bridge.engine.presentDescriptor .current)
        ++ descriptorBytes (t.bridge.engine.presentDescriptor .target)) index length := rfl

section
variable {t}

theorem State.spaceBytes_present (found : t.bridge.engine.volume ≠ .discovering) :
    readsFrom (t.spaceBytes 6 index length)
      (descriptorBytes t.bridge.engine.current ++ descriptorBytes t.bridge.engine.target) index := by
  have present (l : Layout) : t.bridge.engine.presentDescriptor l = t.bridge.engine.descriptor l :=
    if_neg (mt beq_iff_eq.1 found)
  rw [State.spaceBytes_descriptors, present, present]
  exact bytesFrom_reads _ index length

theorem State.spaceBytes_discovering (discovering : t.bridge.engine.volume = .discovering) :
    ∀ x ∈ t.spaceBytes 6 index length, x = 0 := by
  have absent (l : Layout) : t.bridge.engine.presentDescriptor l = none := if_pos (beq_iff_eq.2 discovering)
  rw [State.spaceBytes_descriptors, absent, absent]
  refine bytesFrom_zeros (fun x hx => ?_) index length
  exact (List.mem_append.1 hx).elim (replicate_zeros 32 x) (replicate_zeros 32 x)

end

end

/-- The member list of a descriptor block is padded with zeros to 24 bytes (R187). -/
theorem Descriptor.bytes_padded {d : Descriptor} (short : d.members.length ≤ 24) :
    d.bytes = [BitVec.ofNat 8 d.members.length, BitVec.ofNat 8 d.chunk] ++ leBytes 6 d.rows
      ++ d.members.map (BitVec.ofNat 8) ++ List.replicate (24 - d.members.length) 0 := by
  have members : bytesFrom (d.members.map (BitVec.ofNat 8)) 0 24
      = d.members.map (BitVec.ofNat 8) ++ List.replicate (24 - d.members.length) 0 := by
    simp only [bytesFrom, Nat.zero_add]
    rw [List.range_map_getD_eq, List.take_of_length_le (by simpa using short), List.length_map]
  rw [Descriptor.bytes, members, ← List.append_assoc]
  rfl

/-! The course of a read request (R180, R182). -/

theorem State.drain_eq (n : Nat) (s : State) : State.drain n s = Nat.iterate State.processOldest n s := by
  induction n generalizing s with
  | zero => rfl
  | succ n ih => exact ih s.processOldest

theorem exec_readRequest {s : State} {control : Byte} (line : s.mgmt.line = .readControl control) (high low : Byte) :
    exec (.readRequest high low) s = .next
      ((State.drain s.mgmt.waiting.length { s with bridge := { s.bridge with sent := [.lineAck true 2] } }).fillReply
        control high low).driveAlert := by
  have event : exec (.readRequest high low) s = .next (s.lineEvent (fun s =>
    match s.mgmt.line with
    | .readControl control => s.completeRequest control high low
    | .idle => s.ackBytes false 2
    | .filling => s.ackBytes false 2)) := rfl
  rw [event, State.lineEvent]
  dsimp only
  rw [line]
  rfl

theorem State.fillReply_filled {t : State} {control : Byte} (line : t.mgmt.line = .readControl control) (high low : Byte) :
    (t.fillReply control high low).driveAlert =
      { t.withBridge t.bridge with
        mgmt := { t.mgmt with line := .idle, replies := t.mgmt.replies ++ [t.reply control high low] } } :=
  congrArg State.driveAlert (if_pos (beq_iff_eq.2 line))

theorem State.fillReply_dropped {t : State} {control : Byte} (line : t.mgmt.line ≠ .readControl control) (high low : Byte) :
    (t.fillReply control high low).driveAlert = t.withBridge t.bridge :=
  congrArg State.driveAlert (if_neg (mt beq_iff_eq.1 line))

/-- Settles O45: the frames are drained first, and the reply is the space's bytes as they stand then. -/
theorem readRequestReplied : Obligations.ReadRequestReplied := by
  refine ⟨⟨rfl, rfl, rfl, rfl, rfl, fun n => rfl, rfl⟩, fun control high low s t line drained => ?_⟩
  have event := exec_readRequest line high low
  rw [State.drain_eq, ← drained] at event
  refine ⟨fun none => ?_, fun gone => ?_, fun waiting => ?_⟩
  · rw [drained, none]
    rfl
  · rw [event, State.fillReply_dropped gone]
  · refine ⟨t.spaceBytes (controlSpace control) (controlIndex high low) (controlLength control), ?_, ?_, ?_⟩
    · rw [event, State.fillReply_filled waiting]
      rfl
    · rw [State.spaceBytes_length, controlLength_eq]
    · intro space index reads c e r descriptor
      have readAs {n : Nat} (at_ : space = n) {block : List Byte} {start : Nat}
          (read : readsFrom (t.spaceBytes n index (controlLength control)) block start) : reads block start := by
        subst at_
        exact read
      have zerosAs {n : Nat} (at_ : space = n) (zeros : ∀ x ∈ t.spaceBytes n index (controlLength control), x = 0) :
          ∀ x ∈ t.spaceBytes space index (controlLength control), x = 0 := by
        subst at_
        exact zeros
      have blocks (d : Option Descriptor) (short : ∀ x, d = some x → x.members.length ≤ 24) :
          descriptorBytes d = descriptor d := by
        cases d with
        | none => rfl
        | some d => exact Descriptor.bytes_padded (short d rfl)
      refine ⟨fun zero => readAs zero (t.spaceBytes_settings index _),
        fun one => readAs one (t.spaceBytes_status index _),
        fun two small => readAs two (t.spaceBytes_member index _ small),
        fun three => readAs three (t.spaceBytes_staged index _),
        fun x five capture => readAs five (t.spaceBytes_capture index _ capture),
        fun five none => zerosAs five (t.spaceBytes_noCapture index _ none),
        fun six found short => readAs six ?_,
        fun six discovering => zerosAs six (State.spaceBytes_discovering index _ discovering),
        fun two large => zerosAs two (t.spaceBytes_noMember index _ large),
        fun other => t.spaceBytes_none index _ other⟩
      rw [← blocks _ fun x some_ => short x (.inl some_), ← blocks _ fun x some_ => short x (.inr some_)]
      exact State.spaceBytes_present index _ found

end Sys2Proof.Machine
end
